-- ==== Sys2Proof/Word.lean ====
section
/-! DEFINITION. The machine word (00_scope R9): an integer of the `XLEN`-bit two's-complement range.

A word is an `Int`: `XLEN` is an argument of the machine (R7), every register, bus, ALU slot and memory cell
holds the signed integer a word stands for, and every result is passed through `wrap`, as the pseudocode of
the spec has it. That the integers a machine holds are words of its width is `State.allWords` (Safety.lean).
DEDUCED, safe: log 1. -/

namespace Sys2Proof

/-- The three-bit flags register (10_state R27). -/
abbrev FlagBits := BitVec 3

/-- `wrap(v)` (R9): the word of `xlen` bits congruent to `v` modulo `2 ^ xlen`. -/
def wrap (xlen : Nat) (v : Int) : Int := v.bmod (2 ^ xlen)

/-- Whether an integer is a word of `xlen` bits: `-2^(XLEN-1) <= v < 2^(XLEN-1)` (R9). -/
def isWord (xlen : Nat) (v : Int) : Bool := decide (-2 ^ (xlen - 1) ≤ v) && decide (v < 2 ^ (xlen - 1))

end Sys2Proof
end

