-- ==== Sys2Proof/Config.lean ====
section
/-! DEFINITION. The parameters of the hardware (00_scope R7, 92 "Parameters left open"), which the machine
takes as an argument; the entries of the register file (10_state R30); and the FREE VALUES: constants
without a body, about which nothing can be proved, one for every value the spec writes UNSPECIFIED. -/

namespace Sys2Proof.Config

/-- The two settings of `CMP_OVERFLOW` (R7, 45_compare_jumps R210 (c), decision D9). -/
inductive CmpOverflow
  /-- the sign of the wrapped difference: the spec's reference behaviour -/
  | signOfWrappedDifference
  /-- either branch: the spec's conservative reading -/
  | openBranch
  deriving DecidableEq, Repr

/-- The parameters of R7, an argument of the machine: `State` carries them, no step changes them, and
the statements hold for all valid values of them (log 2). `MEM_INIT` is an argument of the launch
(`State.launch`, log 5). -/
structure Params where
  /-- `XLEN`, the width of a word in bits (R7, `OPEN`, decision D1) -/
  xlen : Nat
  /-- `N`, the number of memory cells (R7: "fixed at construction, default 128") -/
  memSize : Nat
  /-- `NGPR`, the number of general-purpose registers (R7, R21, `OPEN`, decision D2) -/
  numGpr : Nat
  /-- `FLAG_Z`, the bit position of ZERO (R7, R27, decision D4) -/
  flagZ : Fin 3
  /-- `FLAG_N`, the bit position of NEGATIVE (R7, R27, decision D4) -/
  flagN : Fin 3
  /-- `FLAG_NZ`, the bit position of NONZERO (R7, R27, decision D4) -/
  flagNZ : Fin 3
  /-- `ADD_UPDATES_FLAGS`, whether opcodes 0 to 3 recompute the flags (R7, R28, 90_conflicts C1, D7) -/
  addUpdatesFlags : Bool
  /-- `CMP_OVERFLOW`, what `jgt` and `jlw` do when the true difference of their operands does not fit a
  word (R7, `OPEN`, R210 (c), decision D9) -/
  cmpOverflow : CmpOverflow
  deriving DecidableEq, Repr

/-- The values of R7, those of every example and test vector of the spec. Which machine is built is not
the spec's: DESIGN CHOICE for `State.reset` alone, unsafe there: log 3. -/
def Params.reference : Params where
  xlen := 32
  memSize := 128
  numGpr := 4
  flagZ := 0
  flagN := 1
  flagNZ := 2
  addUpdatesFlags := true
  cmpOverflow := .signOfWrappedDifference

/-- `NREG`, the size of the register file (R7). -/
def Params.numReg (P : Params) : Nat := P.numGpr + 3

/-- `ID_PC` (R7, R30). -/
def Params.idPc (P : Params) : Nat := P.numGpr
/-- `ID_IR` (R7, R30). -/
def Params.idIr (P : Params) : Nat := P.numGpr + 1
/-- `ID_FLAGS` (R7, R30). -/
def Params.idFlags (P : Params) : Nat := P.numGpr + 2

/-- The constraints on the parameters (R7, 92 "Parameters left open"), and that the ids of the register
file fit a word, which 92 gives as the reason for `XLEN >= 8` at the default sizes. -/
def Params.valid (P : Params) : Bool :=
  decide (8 ≤ P.xlen) && decide (1 ≤ P.memSize) && decide (P.memSize ≤ 2 ^ (P.xlen - 1)) &&
    decide (2 ≤ P.numGpr) && decide (P.numReg ≤ 2 ^ (P.xlen - 1)) &&
    decide (P.flagZ ≠ P.flagN) && decide (P.flagZ ≠ P.flagNZ) && decide (P.flagN ≠ P.flagNZ)

/-- `-1`, the word with which the loader ends an object image (30_encoding R113, R304). -/
def sentinel : Int := -1

/-- The entries of the register file, in its fixed order (R30): general-purpose registers first,
then PC, IR, Flags. -/
inductive Reg
  | gpr (index : Nat)
  | pc
  | ir
  | flags
  deriving DecidableEq, Repr, Inhabited

/-- Whether a register is one the machine has (10_state R30). -/
def Params.hasReg (P : Params) : Reg → Bool
  | .gpr i => decide (i < P.numGpr)
  | .pc => true
  | .ir => true
  | .flags => true

/-- What the ALU's pending-operation selector records (10_state R36, 40_micro_operations R123). -/
inductive AluOp
  | inc
  | add
  | sub
  deriving DecidableEq, Repr, Inhabited

/-- The word-wide places that can hold an UNSPECIFIED value: the transient state of 10_state R40 at
an instruction boundary, and the result of an ALU instruction whose `Reg` operand names PC, IR or
Flags (70_reset_and_hazards R313). -/
inductive OpenWord
  | ir
  | extbus
  | intbus1
  | intbus2
  | slot0
  | slot1
  | latch
  | aluResult
  deriving DecidableEq, Repr

/-- FREE VALUE (log 8): the integer whose `wrap` place `place` holds at draw `n`. No body: nothing is
known of it. -/
opaque freeWord : OpenWord → Nat → Int

/-- FREE VALUE (log 9): the flags an ALU instruction leaves when R313 leaves them UNSPECIFIED. -/
opaque freeFlags : Nat → FlagBits

/-- FREE VALUE (log 9): the decision of a compare jump when R313 (or R210 (c), under the setting
`openBranch`) leaves it UNSPECIFIED. -/
opaque freeBranch : Nat → Bool

/-- FREE VALUE (log 8): the register selector at an instruction boundary (R40). -/
opaque freeSelector : Nat → Reg

/-- FREE VALUE (log 8): the ALU's pending operation at an instruction boundary (R40). -/
opaque freeAluOp : Nat → AluOp

end Sys2Proof.Config
end

