-- ==== Sys2Proof/Syntax.lean ====
section
/-! DEFINITION. The instructions: one constructor for each row of spec/opcode_table.json, with one
word for each operand cell, in the order of the cells (30_encoding R91, R94, R95).

An operand is the whole word of its cell (R93): a `Reg` cell may hold a word that names no register
and a `Mem` cell a word that is no address; using such a cell raises an event (R98), so the raw word
is kept and `WellFormed.lean` says when it is valid. -/

namespace Sys2Proof

/-- The kinds of operand cells (R92). -/
inductive CellKind
  /-- `Reg`: the id of a register -/
  | reg
  /-- `Mem`: the address of the operand -/
  | mem
  /-- `Imm`: the operand itself -/
  | imm
  /-- `Addr`: a jump target -/
  | addr
  deriving DecidableEq, Repr

/-- The opcode table (R95). -/
inductive Instr
  /-- 0, `add %a %b` (R161) -/
  | addRegReg (a b : Int)
  /-- 1, `add &m %b` (R162) -/
  | addMemReg (m b : Int)
  /-- 2, `add %a &m` (R163) -/
  | addRegMem (a m : Int)
  /-- 3, `add i &m` (R164) -/
  | addImmMem (i m : Int)
  /-- 4, `sub %a %b` (R165) -/
  | subRegReg (a b : Int)
  /-- 5, `sub &m %b` (R166) -/
  | subMemReg (m b : Int)
  /-- 6, `sub %a &m` (R167) -/
  | subRegMem (a m : Int)
  /-- 7, `sub i &m` (R168) -/
  | subImmMem (i m : Int)
  /-- 8, reserved (R97, R271) -/
  | reserved8
  /-- 9, reserved (R97, R271) -/
  | reserved9
  /-- 10, reserved (R97, R271) -/
  | reserved10
  /-- 11, `move &m %b` (R181) -/
  | moveMemReg (m b : Int)
  /-- 12, `move %a &m` (R182) -/
  | moveRegMem (a m : Int)
  /-- 13, `move %a %b` (R183) -/
  | moveRegReg (a b : Int)
  /-- 14, `move i %b` (R184) -/
  | moveImmReg (i b : Int)
  /-- 15, `inc %a` (R191) -/
  | incReg (a : Int)
  /-- 16, `inc &m` (R192) -/
  | incMem (m : Int)
  /-- 17, `jmp t` (R201) -/
  | jmp (t : Int)
  /-- 18, `jn t` (R202) -/
  | jn (t : Int)
  /-- 19, `jz t` (R203) -/
  | jz (t : Int)
  /-- 20, `jnz t` (R204) -/
  | jnz (t : Int)
  /-- 21, `jeq %a %b t` (R211) -/
  | jeq (a b t : Int)
  /-- 22, `jgt %a %b t` (R212) -/
  | jgt (a b t : Int)
  /-- 23, `jlw %a %b t` (R213) -/
  | jlw (a b t : Int)
  /-- 24, `ldi %a i` (R221) -/
  | ldi (a i : Int)
  deriving DecidableEq, Repr

/-- The operand cells of an instruction, in ascending order of address, each with its kind: the
format table of R91. -/
def Instr.operands : Instr → List (CellKind × Int)
  | .addRegReg a b | .subRegReg a b | .moveRegReg a b => [(.reg, a), (.reg, b)]
  | .addMemReg m b | .subMemReg m b | .moveMemReg m b => [(.mem, m), (.reg, b)]
  | .addRegMem a m | .subRegMem a m | .moveRegMem a m => [(.reg, a), (.mem, m)]
  | .addImmMem i m | .subImmMem i m => [(.imm, i), (.mem, m)]
  | .moveImmReg i b => [(.imm, i), (.reg, b)]
  | .incReg a => [(.reg, a)]
  | .incMem m => [(.mem, m)]
  | .jmp t | .jn t | .jz t | .jnz t => [(.addr, t)]
  | .jeq a b t | .jgt a b t | .jlw a b t => [(.reg, a), (.reg, b), (.addr, t)]
  | .ldi a i => [(.reg, a), (.imm, i)]
  | .reserved8 | .reserved9 | .reserved10 => []

end Sys2Proof
end

