-- ==== Sys2Proof/WellFormed.lean ====
section
/-! DEFINITION. When the operand cells of an instruction are valid (30_encoding R92, R98), in a machine
with given parameters. The machine runs ill-formed instructions too: their cells raise the events of
60_exceptions R272 and R273. -/

namespace Sys2Proof

/-- A word that is an address: `0 <= a < N` (20_memory R62). Negative words are out of range. -/
def addressValid (P : Config.Params) (a : Int) : Bool := decide (0 ≤ a) && decide (a < P.memSize)

/-- A word that is a register id: `0 <= v < NREG` (R92 (a)). -/
def registerIdValid (P : Config.Params) (v : Int) : Bool := decide (0 ≤ v) && decide (v < P.numReg)

/-- A valid cell (R92): an `Imm` and an `Addr` cell may hold any word (R98 (d), (e)). -/
def CellKind.valid (P : Config.Params) : CellKind → Int → Bool
  | .reg, v => registerIdValid P v
  | .mem, a => addressValid P a
  | .imm, _ => true
  | .addr, _ => true

/-- An instruction all of whose operand cells are valid. -/
def Instr.wf (P : Config.Params) (i : Instr) : Bool := i.operands.all fun c => c.1.valid P c.2

end Sys2Proof
end

