-- ==== Sys2Proof/Decode.lean ====
section
/-! DEFINITION. The instruction stream format (30_encoding R90, R91, R95, R96): decoding a list of
cells, lowest address first, and the encoder. -/

namespace Sys2Proof

/-- Why a list of cells decodes to no instruction. -/
inductive DecodeError
  /-- there is no opcode cell -/
  | noCell
  /-- the opcode cell equals none of the numbers 0 to 24 (R96) -/
  | unmatched (v : Int)
  /-- the list ends before the operand cells of opcode `v` do -/
  | truncated (v : Int)
  deriving DecidableEq, Repr

/-- What a decoder answers: an instruction and the cells after it, or an error. -/
abbrev Decoded := Except DecodeError (Instr × List Int)

/-- Takes one operand cell. -/
def takeCell1 (v : Int) (make : Int → Instr) : List Int → Decoded
  | c1 :: rest => .ok (make c1, rest)
  | _ => .error (.truncated v)

/-- Takes two operand cells. -/
def takeCell2 (v : Int) (make : Int → Int → Instr) : List Int → Decoded
  | c1 :: c2 :: rest => .ok (make c1 c2, rest)
  | _ => .error (.truncated v)

/-- Takes three operand cells. -/
def takeCell3 (v : Int) (make : Int → Int → Int → Instr) : List Int → Decoded
  | c1 :: c2 :: c3 :: rest => .ok (make c1 c2 c3, rest)
  | _ => .error (.truncated v)

/-- Selects the row of the opcode table by exact match of the whole opcode word (R96), and takes as
many operand cells as the row has (R91, R95). -/
def decodeOperands (v : Int) (cells : List Int) : Decoded :=
  match v with
  | 0 => takeCell2 v .addRegReg cells
  | 1 => takeCell2 v .addMemReg cells
  | 2 => takeCell2 v .addRegMem cells
  | 3 => takeCell2 v .addImmMem cells
  | 4 => takeCell2 v .subRegReg cells
  | 5 => takeCell2 v .subMemReg cells
  | 6 => takeCell2 v .subRegMem cells
  | 7 => takeCell2 v .subImmMem cells
  | 8 => .ok (.reserved8, cells)
  | 9 => .ok (.reserved9, cells)
  | 10 => .ok (.reserved10, cells)
  | 11 => takeCell2 v .moveMemReg cells
  | 12 => takeCell2 v .moveRegMem cells
  | 13 => takeCell2 v .moveRegReg cells
  | 14 => takeCell2 v .moveImmReg cells
  | 15 => takeCell1 v .incReg cells
  | 16 => takeCell1 v .incMem cells
  | 17 => takeCell1 v .jmp cells
  | 18 => takeCell1 v .jn cells
  | 19 => takeCell1 v .jz cells
  | 20 => takeCell1 v .jnz cells
  | 21 => takeCell3 v .jeq cells
  | 22 => takeCell3 v .jgt cells
  | 23 => takeCell3 v .jlw cells
  | 24 => takeCell2 v .ldi cells
  | _ => .error (.unmatched v)

/-- Decodes the instruction at the head of a list of cells. Total: a list that starts with no
instruction is rejected with the reason. -/
def decode : List Int → Decoded
  | [] => .error .noCell
  | v :: cells => decodeOperands v cells

/-- The cells of an instruction, lowest address first (R91, R95, R113): the opcode number, then the
operand cells in the order of its format. -/
def encode : Instr → List Int
  | .addRegReg a b => [0, a, b]
  | .addMemReg m b => [1, m, b]
  | .addRegMem a m => [2, a, m]
  | .addImmMem i m => [3, i, m]
  | .subRegReg a b => [4, a, b]
  | .subMemReg m b => [5, m, b]
  | .subRegMem a m => [6, a, m]
  | .subImmMem i m => [7, i, m]
  | .reserved8 => [8]
  | .reserved9 => [9]
  | .reserved10 => [10]
  | .moveMemReg m b => [11, m, b]
  | .moveRegMem a m => [12, a, m]
  | .moveRegReg a b => [13, a, b]
  | .moveImmReg i b => [14, i, b]
  | .incReg a => [15, a]
  | .incMem m => [16, m]
  | .jmp t => [17, t]
  | .jn t => [18, t]
  | .jz t => [19, t]
  | .jnz t => [20, t]
  | .jeq a b t => [21, a, b, t]
  | .jgt a b t => [22, a, b, t]
  | .jlw a b t => [23, a, b, t]
  | .ldi a i => [24, a, i]

/-- The opcode cell of an instruction (R90). -/
def Instr.opcode (i : Instr) : Int := (encode i).headD 0

/-- The length of an instruction in cells (R90). -/
def Instr.length (i : Instr) : Nat := (encode i).length

/-- The four cells (the longest instruction, R90) that an opcode-table word stands for: the table gives a
cell 32 bits (log 3), bit 0 is the least significant bit of the first cell, and every bit from `nbits` on
is 0. -/
def tableCells (nbits w : Nat) : List Int :=
  [0, 1, 2, 3].map fun k => wrap 32 ((w % 2 ^ nbits) >>> (32 * k) : Nat)

/-- The instruction the decoder reads from an opcode-table word. -/
def decodeTableWord (nbits w : Nat) : Option Instr :=
  match decode (tableCells nbits w) with
  | .ok (i, _) => some i
  | .error _ => none

end Sys2Proof
end

