-- ==== Sys2Proof/Machine/State.lean ====
section
/-! DEFINITION. The state of the machine (10_state R20), plain data: every register, bus, slot,
latch and memory cell the spec names, the parameters the machine was built with, and one counter of the
model's own. -/

namespace Sys2Proof.Machine

/-- The three buses (10_state R35). -/
inductive Bus
  /-- `extbus`: memory, the selector and the external side of every register -/
  | ext
  /-- `intbus1`: the general-purpose registers (R31, decision D6) -/
  | int1
  /-- `intbus2`: PC, IR and Flags (R31, decision D6) -/
  | int2
  deriving DecidableEq, Repr

/-- The two operand slots of the ALU (10_state R36). -/
inductive Slot
  | slot0
  | slot1
  deriving DecidableEq, Repr

/-- The phase bit of the two-phase store (10_state R38, 40_micro_operations R127). -/
inductive Phase
  /-- the next `mem.store()` latches an address -/
  | idle
  /-- the next `mem.store()` writes -/
  | latched
  deriving DecidableEq, Repr

/-- The fatal events of 60_exceptions R270. A fault is an event of the machine's own: the step that
raises it has a NEXT state, whose `status` records it (R33, R277), so that what R277 says of the
state after it can be stated. No step answers `Host.Outcome.fault`. Safe: see log 15. -/
inductive Fault
  /-- `AddressOutOfRange(a)`: raised by `mem.read()` and by the latching `mem.store()` when the word
  on `extbus` is no address (R272) -/
  | addressOutOfRange (a : Int)
  /-- `RegisterIdOutOfRange(v)`: raised by `sel.load()` when the word on `extbus` is no register id
  (R273) -/
  | registerIdOutOfRange (v : Int)
  deriving DecidableEq, Repr

/-- Why an instruction has no meaning. -/
inductive Refusal
  /-- An instruction that has no meaning yet: raised by an arm of `exec` alone. No arm raises it in
  this model. Safe: nothing runs. -/
  | notModelled (mnemonic : String)
  deriving DecidableEq, Repr

/-- The control unit's state (10_state R33). The word that halted the machine is in `ir` and its
address in `pc` (60_exceptions R271). -/
inductive Status
  | running
  | halted
  | fault (cause : Fault)
  deriving DecidableEq, Repr

/-- Memory (20_memory R60, R61): the cells that do not hold 0, as pairs of an address and a word,
addresses strictly rising. The cell is the smallest addressable unit (R65), so a pair holds a word, not a
byte. DEDUCED, safe: log 4. -/
abbrev Memory := List (Nat × Int)

/-- The complete state of the machine (R20). -/
structure State where
  /-- THE MODEL'S OWN: the parameters the machine was built with (00_scope R7). No step changes them.
  Log 2. -/
  params : Config.Params
  /-- `x[0]` to `x[NGPR-1]` (R21); their number is `params.numGpr` -/
  gpr : List Int
  /-- `x[ID_PC]`, the program counter (R24) -/
  pc : Int
  /-- `x[ID_IR]`, the instruction register (R26) -/
  ir : Int
  /-- `x[ID_FLAGS]` (R27) -/
  flags : FlagBits
  /-- `M[0]` to `M[N-1]` (20_memory R60) -/
  mem : Memory
  /-- the control unit's state (R33) -/
  status : Status
  /-- external bus (R35) -/
  extbus : Int
  /-- internal bus 1 (R35) -/
  intbus1 : Int
  /-- internal bus 2 (R35) -/
  intbus2 : Int
  /-- ALU operand slot 0 (R36) -/
  slot0 : Int
  /-- ALU operand slot 1 (R36) -/
  slot1 : Int
  /-- ALU pending-operation selector (R36): written by every ALU command, read by none -/
  aluop : Config.AluOp
  /-- register selector (R37): one of its valid values -/
  sel : Config.Reg
  /-- store address latch (R38) -/
  latch : Int
  /-- phase of the store protocol (R38) -/
  phase : Phase
  /-- THE MODEL'S OWN: how many times open values have been drawn. Log 8. -/
  freeCount : Nat
  deriving DecidableEq, Repr

/-- A machine with parameters `P` right after reset (R41, 70_reset_and_hazards R300), before anything is
loaded. Registers and flags are 0 by the spec's decision D15 (log 6); the transient state, which the spec
leaves UNSPECIFIED, is 0 by DESIGN CHOICE, unsafe: log 7. -/
def State.resetWith (P : Config.Params) : State where
  params := P
  gpr := List.replicate P.numGpr 0
  pc := 0
  ir := 0
  flags := 0
  mem := []
  status := .running
  extbus := 0
  intbus1 := 0
  intbus2 := 0
  slot0 := 0
  slot1 := 0
  aluop := .inc
  sel := .gpr 0
  latch := 0
  phase := .idle
  freeCount := 0

/-- The machine of the spec's examples right after reset: the parameters at the values of R7 (log 3). -/
def State.reset : State := State.resetWith Config.Params.reference

/-- The architectural state (R40): what has a specified value at every instruction boundary, and the
parameters of the machine it belongs to. -/
structure Arch where
  params : Config.Params
  gpr : List Int
  pc : Int
  flags : FlagBits
  mem : Memory
  status : Status
  deriving DecidableEq, Repr

/-- The architectural state of a machine: what the environment may inspect (R40, 60_exceptions R276). -/
def State.arch (s : State) : Arch where
  params := s.params
  gpr := s.gpr
  pc := s.pc
  flags := s.flags
  mem := s.mem
  status := s.status

end Sys2Proof.Machine
end

