-- ==== Sys2Proof/Machine/Flags.lean ====
section
/-! DEFINITION. The flags (10_state R27 to R29): the one flag computation of the machine, the three
flag bits, and the flags as a word. -/

namespace Sys2Proof.Machine

/-- One flag bit in its place (R27). -/
def flagBit (position : Fin 3) (value : Bool) : FlagBits := if value then 1#3 <<< position.val else 0#3

/-- `SetFlags(r)` (00_scope R11, 10_state R27): ZERO iff `r = 0`, NEGATIVE iff `r < 0`, NONZERO iff
`r ≠ 0`; all three bits are written together. -/
def flagsOf (P : Config.Params) (r : Int) : FlagBits :=
  flagBit P.flagZ (decide (r = 0)) ||| flagBit P.flagN (decide (r < 0)) |||
    flagBit P.flagNZ (decide (r ≠ 0))

/-- The bit ZERO (R27). -/
def zeroFlag (P : Config.Params) (f : FlagBits) : Bool := f.getLsbD P.flagZ
/-- The bit NEGATIVE (R27). -/
def negativeFlag (P : Config.Params) (f : FlagBits) : Bool := f.getLsbD P.flagN
/-- The bit NONZERO (R27): a bit of its own, not the complement of ZERO (44_jumps R204). -/
def nonzeroFlag (P : Config.Params) (f : FlagBits) : Bool := f.getLsbD P.flagNZ

/-- The flags read onto a bus: `zext_XLEN(flags)` (R29, decision D5). -/
def flagsToWord (f : FlagBits) : Int := f.toNat

/-- A word stored into the flags: bits `[2:0]` are kept, the rest dropped (R29, decision D5). -/
def flagsOfWord (v : Int) : FlagBits := BitVec.ofInt 3 v

end Sys2Proof.Machine
end

