-- ==== Sys2Proof/Machine/Memory.lean ====
section
/-! DEFINITION. Memory as data: one cell read, one cell written, the canonical form (20_memory R60 to
R62, R65, R71). -/

namespace Sys2Proof.Machine

/-- A word that is an address of a machine with `N` cells (20_memory R62): `0 <= a < N`. Negative words
are out of range. -/
def inRange (P : Config.Params) (a : Int) : Bool := decide (0 ≤ a) && decide (a < P.memSize)

/-- What a cell that a memory does not list holds. It fixes no contents: a launch lists the cells that
hold another word (`State.launch`). Log 5. -/
abbrev unlistedCell : Int := 0

/-- `M[a]`: the last word written to cell `a`, or the word it was launched with (R71 (b), R304). -/
def readCell : Memory → Nat → Int
  | [], _ => unlistedCell
  | (k, v) :: rest, a => if k = a then v else readCell rest a

/-- Puts a cell at the head of a memory whose addresses are all larger, unless it holds what an unlisted
cell holds. -/
def consCell (a : Nat) (v : Int) (rest : Memory) : Memory :=
  if v = unlistedCell then rest else (a, v) :: rest

/-- `M[a] <- v`. Keeps the canonical form: writing what an unlisted cell holds removes the entry. -/
def writeCell : Memory → Nat → Int → Memory
  | [], a, v => consCell a v []
  | (k, w) :: rest, a, v =>
    if a < k then consCell a v ((k, w) :: rest)
    else if a = k then consCell a v rest
    else (k, w) :: writeCell rest a v

/-- The canonical form of a memory of `N` cells from address `low` on: addresses rise strictly, lie in
`[0, N)`, and no listed cell holds what an unlisted one does. -/
def wfFrom (memSize : Nat) : Nat → Memory → Bool
  | _, [] => true
  | low, (k, v) :: rest =>
    decide (low ≤ k) && decide (k < memSize) && decide (v ≠ unlistedCell) && wfFrom memSize (k + 1) rest

/-- The canonical form of a memory of `N` cells, so that equal memories are equal data. -/
def Memory.wf (memSize : Nat) (m : Memory) : Bool := wfFrom memSize 0 m

/-- Writes consecutive cells from address `a` on; cells outside `[0, N)` do not exist and are left
out. -/
def writeCells (memSize : Nat) : Memory → Nat → List Int → Memory
  | m, _, [] => m
  | m, a, v :: rest => writeCells memSize (if a < memSize then writeCell m a v else m) (a + 1) rest

end Sys2Proof.Machine
end

