-- ==== Sys2Proof/Machine/Ops.lean ====
section
/-! DEFINITION. The operations of the components (40_micro_operations R120 to R130), one definition
each, and the terminal events (60_exceptions R270, R271, R277).

There is no trap entry and no return from one (60_exceptions R279, R282): the whole effect of an
event is the change of `status`, and only a reset leaves a terminal state. -/

namespace Sys2Proof.Machine

open Sys2Proof.Config

/-- What a transaction answers: a state, or a fault (R272, R273) with the state it was raised in. -/
abbrev Run := Except (Fault × State) State

/-- `wrap(v)` (00_scope R9) in this machine. -/
abbrev State.toWord (s : State) (v : Int) : Int := wrap s.params.xlen v

/-! ### Buses (R120) -/

/-- `B.get()`: the word the bus holds. -/
def State.busGet (s : State) : Bus → Int
  | .ext => s.extbus
  | .int1 => s.intbus1
  | .int2 => s.intbus2

/-- `B.put(v)`: overwrites the word the bus holds. -/
def State.busPut (s : State) (b : Bus) (v : Int) : State :=
  match b with
  | .ext => { s with extbus := v }
  | .int1 => { s with intbus1 := v }
  | .int2 => { s with intbus2 := v }

/-! ### The register file (10_state R30, R31) -/

/-- The register a register id names (R30, R92 (a)); `none` for a word outside `0 .. NREG-1`. -/
def regOfId (P : Params) (v : Int) : Option Reg :=
  if v < 0 then none
  else if v < P.numGpr then some (.gpr v.toNat)
  else if v = P.idPc then some .pc
  else if v = P.idIr then some .ir
  else if v = P.idFlags then some .flags
  else none

/-- The word a register puts on a bus: the register's own, or the flags zero-extended (R29, R121). -/
def State.getReg (s : State) : Reg → Int
  | .gpr i => s.gpr.getD i 0
  | .pc => s.pc
  | .ir => s.ir
  | .flags => flagsToWord s.flags

/-- A word stored into a register: whole, but for the flags, which keep bits `[2:0]` (R29, R121). -/
def State.setReg (s : State) (r : Reg) (v : Int) : State :=
  match r with
  | .gpr i => { s with gpr := s.gpr.set i v }
  | .pc => { s with pc := v }
  | .ir => { s with ir := v }
  | .flags => { s with flags := flagsOfWord v }

/-- The internal bus a register is wired to (R31, the spec's decision D6). UNVERIFIED, unsafe:
log 18. -/
def internalBus : Reg → Bus
  | .gpr _ => .int1
  | .pc => .int2
  | .ir => .int2
  | .flags => .int2

/-- `r.read()` (R121): the register onto the external bus. -/
def State.registerRead (s : State) (r : Reg) : State := s.busPut .ext (s.getReg r)

/-- `r.store()` (R121): the external bus into the register. -/
def State.registerStore (s : State) (r : Reg) : State := s.setReg r (s.busGet .ext)

/-- `r.internalRead()` (R121): the register onto its internal bus. -/
def State.registerInternalRead (s : State) (r : Reg) : State := s.busPut (internalBus r) (s.getReg r)

/-- `r.internalStore()` (R121): its internal bus into the register. -/
def State.registerInternalStore (s : State) (r : Reg) : State := s.setReg r (s.busGet (internalBus r))

/-- `sel.load()` (R128, decision D13): the selector takes the id on the external bus; an id that
names no register is fatal. UNVERIFIED (the spec decides), unsafe: log 14. -/
def State.selectorLoad (s : State) : Run :=
  match regOfId s.params (s.busGet .ext) with
  | some r => .ok { s with sel := r }
  | none => .error (.registerIdOutOfRange (s.busGet .ext), s)

/-! ### The ALU (R122, R123, R125) -/

/-- The word an operand slot holds. -/
def State.getSlot (s : State) : Slot → Int
  | .slot0 => s.slot0
  | .slot1 => s.slot1

/-- Loads an operand slot. -/
def State.setSlot (s : State) (i : Slot) (v : Int) : State :=
  match i with
  | .slot0 => { s with slot0 := v }
  | .slot1 => { s with slot1 := v }

/-- `alu.store(i)`: internal bus 1 into slot `i` (R122). -/
def State.aluStore (s : State) (i : Slot) : State := s.setSlot i (s.busGet .int1)

/-- `alu.internalStore(i)`: internal bus 2 into slot `i` (R122). -/
def State.aluInternalStore (s : State) (i : Slot) : State := s.setSlot i (s.busGet .int2)

/-- `alu.read(i)`: slot `i` onto internal bus 1 (R122). -/
def State.aluRead (s : State) (i : Slot) : State := s.busPut .int1 (s.getSlot i)

/-- `alu.internalRead(i)`: slot `i` onto internal bus 2 (R122). -/
def State.aluInternalRead (s : State) (i : Slot) : State := s.busPut .int2 (s.getSlot i)

/-- The word an ALU command computes from slots 0 and 1, wrapped to a word (R123, R125). -/
def aluResult (xlen : Nat) (op : AluOp) (v0 v1 : Int) : Int :=
  match op with
  | .inc => wrap xlen (v1 + 1)
  | .add => wrap xlen (v0 + v1)
  | .sub => wrap xlen (v0 - v1)

/-- `alu.inc()`, `alu.add()`, `alu.sub()`: the result into slot 1, the command into the
pending-operation selector; no bus and no flag changes (R123, R124). -/
def State.aluCommand (s : State) (op : AluOp) : State :=
  { s with slot1 := aluResult s.params.xlen op s.slot0 s.slot1, aluop := op }

/-- `cu.deriveFlags(B)` (R130): the flags of the word on the bus. -/
def State.deriveFlags (s : State) (b : Bus) : State := { s with flags := flagsOf s.params (s.busGet b) }

/-! ### Memory (R126, R127) -/

/-- `mem.read()` (R126): the word on the external bus is an address; the cell's word replaces it. -/
def State.memoryRead (s : State) : Run :=
  if inRange s.params (s.busGet .ext) then .ok (s.busPut .ext (readCell s.mem (s.busGet .ext).toNat))
  else .error (.addressOutOfRange (s.busGet .ext), s)

/-- `mem.store()` (R127, decision D12): the first call checks and latches the address, the second
writes. UNVERIFIED (the spec decides), safe at the instruction level: log 17. -/
def State.memoryStore (s : State) : Run :=
  match s.phase with
  | .idle =>
    if inRange s.params (s.busGet .ext) then .ok { s with latch := s.busGet .ext, phase := .latched }
    else .error (.addressOutOfRange (s.busGet .ext), s)
  | .latched => .ok { s with mem := writeCell s.mem s.latch.toNat (s.busGet .ext), phase := .idle }

/-- `mem.read()` of a cell of the running instruction, whose word `c` the decoded instruction gives:
checked as every read is, it puts `c` on the external bus. Where `c` is the word in memory it is
`mem.read()` itself. DEDUCED, safe: log 19. -/
def State.instructionCellRead (s : State) (c : Int) : Run :=
  if inRange s.params (s.busGet .ext) then .ok (s.busPut .ext c)
  else .error (.addressOutOfRange (s.busGet .ext), s)

/-! ### Instruction boundary and terminal events -/

/-- The word that an UNSPECIFIED place holds at this draw (log 8). -/
def State.openWord (s : State) (place : OpenWord) : Int := s.toWord (freeWord place s.freeCount)

/-- The register the UNSPECIFIED selector names at this draw: one that the machine has (R37, log 8). -/
def State.openSelector (s : State) : Reg :=
  match freeSelector s.freeCount with
  | .gpr i => .gpr (i % s.params.numGpr)
  | r => r

/-- The transient state becomes UNSPECIFIED (10_state R40, 60_exceptions R277): every word of it is a
free value. `phase` is not among them: it is IDLE at every boundary (R38). Log 8, safe. -/
def State.forgetTransients (s : State) : State :=
  { s with
    ir := s.openWord .ir
    extbus := s.openWord .extbus
    intbus1 := s.openWord .intbus1
    intbus2 := s.openWord .intbus2
    slot0 := s.openWord .slot0
    slot1 := s.openWord .slot1
    aluop := freeAluOp s.freeCount
    sel := s.openSelector
    latch := s.openWord .latch
    freeCount := s.freeCount + 1 }

/-- Raising a fatal event (R270, R277): `status` records it, the transient state is UNSPECIFIED, and
everything else stands as the raising transaction left it; `pc` is not restored. -/
def State.raiseFault (s : State) (f : Fault) : State := { s.forgetTransients with status := .fault f }

/-- `Halt(v)` (R271): `status` becomes HALTED and nothing else changes; `v` is in `ir`, its address
in `pc`. -/
def State.halt (s : State) : State := { s with status := .halted }

end Sys2Proof.Machine
end

