-- ==== Sys2Proof/Machine/Transaction.lean ====
section
/-! DEFINITION. Transactions as data, and running them in order (40_micro_operations R120 to R138,
00_scope R12): a microprogram is a list of transactions. -/

namespace Sys2Proof.Machine

open Sys2Proof.Config

/-- One transaction of one component (R12). -/
inductive Transaction
  /-- `r.read()` of a register named by the microprogram: PC or IR -/
  | regRead (r : Reg)
  /-- `r.store()` -/
  | regStore (r : Reg)
  /-- `r.internalRead()` -/
  | regInternalRead (r : Reg)
  /-- `r.internalStore()` -/
  | regInternalStore (r : Reg)
  /-- `sel.load()` -/
  | selLoad
  /-- `rf.read()` -/
  | rfRead
  /-- `rf.store()` -/
  | rfStore
  /-- `rf.internalRead()` -/
  | rfInternalRead
  /-- `rf.internalStore()` -/
  | rfInternalStore
  /-- `alu.store(i)` -/
  | aluStore (i : Slot)
  /-- `alu.internalStore(i)` -/
  | aluInternalStore (i : Slot)
  /-- `alu.read(i)` -/
  | aluRead (i : Slot)
  /-- `alu.internalRead(i)` -/
  | aluInternalRead (i : Slot)
  /-- `alu.inc()`, `alu.add()`, `alu.sub()` -/
  | aluCommand (op : AluOp)
  /-- `mem.read()` -/
  | memRead
  /-- `mem.read()` of a cell of the running instruction, which holds `c` (log 19) -/
  | cellRead (c : Int)
  /-- `mem.store()` -/
  | memStore
  /-- `cu.deriveFlags(B)` -/
  | deriveFlags (b : Bus)
  deriving DecidableEq, Repr

/-- The effect of one transaction. The `rf` forms are the register operations on the register the
selector names (R129). -/
def Transaction.apply (t : Transaction) (s : State) : Run :=
  match t with
  | .regRead r => .ok (s.registerRead r)
  | .regStore r => .ok (s.registerStore r)
  | .regInternalRead r => .ok (s.registerInternalRead r)
  | .regInternalStore r => .ok (s.registerInternalStore r)
  | .selLoad => s.selectorLoad
  | .rfRead => .ok (s.registerRead s.sel)
  | .rfStore => .ok (s.registerStore s.sel)
  | .rfInternalRead => .ok (s.registerInternalRead s.sel)
  | .rfInternalStore => .ok (s.registerInternalStore s.sel)
  | .aluStore i => .ok (s.aluStore i)
  | .aluInternalStore i => .ok (s.aluInternalStore i)
  | .aluRead i => .ok (s.aluRead i)
  | .aluInternalRead i => .ok (s.aluInternalRead i)
  | .aluCommand op => .ok (s.aluCommand op)
  | .memRead => s.memoryRead
  | .cellRead c => s.instructionCellRead c
  | .memStore => s.memoryStore
  | .deriveFlags b => .ok (s.deriveFlags b)

/-- Transactions happen one at a time, in the order listed; the first fault ends the run (R138,
60_exceptions R278). -/
def runTransactions : List Transaction → State → Run
  | [], s => .ok s
  | t :: rest, s =>
    match t.apply s with
    | .ok s' => runTransactions rest s'
    | .error e => .error e

/-- What the control unit tests before a conditional ending (47_microprograms R246 to R251). A flag
is tested directly (decision D26), a difference is read off internal bus 1. -/
inductive Test
  | negative
  | zero
  | nonzero
  | differenceZero
  | differencePositive
  | differenceNegative
  deriving DecidableEq, Repr

/-- Whether a test holds. -/
def Test.holds (t : Test) (s : State) : Bool :=
  match t with
  | .negative => negativeFlag s.params s.flags
  | .zero => zeroFlag s.params s.flags
  | .nonzero => nonzeroFlag s.params s.flags
  | .differenceZero => decide (s.busGet .int1 = 0)
  | .differencePositive => decide (0 < s.busGet .int1)
  | .differenceNegative => decide (s.busGet .int1 < 0)

/-- `PCADV` (R131): the five transactions that advance the program counter by one cell. -/
def pcadv : List Transaction :=
  [.regInternalRead .pc, .aluInternalStore .slot1, .aluCommand .inc, .aluInternalRead .slot1,
    .regInternalStore .pc]

/-- A microprogram: a fixed sequence, and for a conditional jump the test that chooses between
storing the target into PC and one more `PCADV` (R136). -/
structure Microprogram where
  body : List Transaction
  test : Option Test
  deriving DecidableEq, Repr

/-- The ending a conditional jump chooses (47_microprograms R246, R249). -/
def chosenEnding (taken : Bool) : List Transaction := if taken then [.regStore .pc] else pcadv

/-- Runs a microprogram to completion (R136). -/
def Microprogram.run (p : Microprogram) (s : State) : Run :=
  match runTransactions p.body s with
  | .error e => .error e
  | .ok s' =>
    match p.test with
    | none => .ok s'
    | some t => runTransactions (chosenEnding (t.holds s')) s'

/-- `CELL` with the transaction that reads the cell (R132). -/
def cellFetch (read : Transaction) : List Transaction := [.regRead .pc, read]

/-- Fetch and the bus transaction of Decode (R134, R135): the opcode cell is read, stored into IR, and
put on internal bus 2 for the match. -/
def fetchDecode (read : Transaction) : List Transaction :=
  cellFetch read ++ [.regStore .ir, .regInternalRead .ir]

/-- How the cells of an instruction are read: the transaction for cell `k`, `k = 0` for the opcode. -/
abbrev CellReader := Nat → Transaction

/-- The cells of a decoded instruction. -/
def givenCells (cells : List Int) : CellReader := fun k => .cellRead (cells.getD k 0)

/-- The cells as memory holds them: `mem.read()` for every one. -/
def memoryCells : CellReader := fun _ => .memRead

/-- One instruction step: Fetch, Decode, Execute (R134 to R137). -/
def instructionStep (cells : CellReader) (p : CellReader → Microprogram) (s : State) : Run :=
  match runTransactions (fetchDecode (cells 0)) s with
  | .error e => .error e
  | .ok s' => (p cells).run s'

end Sys2Proof.Machine
end

