-- ==== Sys2Proof/Machine/Operands.lean ====
section
/-! DEFINITION. Every operand form: the operand protocols of 40_micro_operations R133, the IR bridge
of 47_microprograms R230, operands that name PC, IR or Flags (70_reset_and_hazards R313), and the
one shape of an instruction's meaning. -/

namespace Sys2Proof.Machine

open Sys2Proof.Config

/-! ### Operand protocols (R133); `read` is the transaction that reads the operand cell -/

/-- `Imm` or `Addr` operand: the cell's word is left on the external bus. -/
def immOperand (read : Transaction) : List Transaction := pcadv ++ cellFetch read

/-- `Reg` operand: the selector takes the id; a register-file dispatch follows. -/
def regOperand (read : Transaction) : List Transaction := pcadv ++ cellFetch read ++ [.selLoad]

/-- `Mem` operand, value needed: the second read dereferences the address. -/
def memSource (read : Transaction) : List Transaction := pcadv ++ cellFetch read ++ [.memRead]

/-- `Mem` operand, destination: the address is checked and latched. -/
def memDestination (read : Transaction) : List Transaction := pcadv ++ cellFetch read ++ [.memStore]

/-- IR carries a word from the external bus to internal bus 2 (R230 (a)). -/
def bridgeIn : List Transaction := [.regStore .ir, .regInternalRead .ir]

/-- IR carries a word from internal bus 2 to the external bus (R230 (a)). -/
def bridgeOut : List Transaction := [.regInternalStore .ir, .regRead .ir]

/-! ### Operands that name PC, IR or Flags in an ALU instruction (R313) -/

/-- An id of PC, IR or Flags: in range, but no general-purpose register. -/
def namesSpecial (P : Params) (v : Int) : Bool :=
  match regOfId P v with
  | some (.gpr _) => false
  | some _ => true
  | none => false

/-- The flags become UNSPECIFIED (R313). Log 9, safe. -/
def State.openFlags (s : State) : State := { s with flags := freeFlags s.freeCount }

/-- R313, register destination: the flags, if the instruction derives them, and the word written to
the destination are free values; where the destination is PC, that word is the new `pc`. Everything
else is as the instruction's rule says. Log 9, safe. -/
def State.openRegisterResult (s : State) (setsFlags : Bool) (destination : Int) : State :=
  match regOfId s.params destination with
  | some r => (if setsFlags then s.openFlags else s).setReg r (s.openWord .aluResult)
  | none => s

/-- R313, memory destination: the flags and the word written to the cell are free values. Log 9, safe. -/
def State.openMemoryResult (s : State) (setsFlags : Bool) (address : Int) : State :=
  let s' := if setsFlags then s.openFlags else s
  { s' with mem := writeCell s'.mem address.toNat (s.openWord .aluResult) }

/-- R313, compare jump: the decision is a free value. Log 9, safe. -/
def State.openBranch (s : State) (taken fallThrough : Int) : State :=
  { s with pc := if freeBranch s.freeCount then taken else fallThrough }

/-- Whether the true difference of two words fits a word (45_compare_jumps R210 (c)). -/
def differenceFits (xlen : Nat) (x y : Int) : Bool := isWord xlen (x - y)

/-- The word in the register an id names, 0 for an id that names none. -/
def State.operandValue (s : State) (id : Int) : Int :=
  match regOfId s.params id with
  | some r => s.getReg r
  | none => 0

/-- Whether `jgt` and `jlw` are left open on overflow (R210 (c), `CMP_OVERFLOW`). Log 13. -/
def State.comparisonOpen (s : State) (a b : Int) : Bool :=
  match s.params.cmpOverflow with
  | .signOfWrappedDifference => false
  | .openBranch => !differenceFits s.params.xlen (s.operandValue a) (s.operandValue b)

/-! ### The meaning of an instruction -/

/-- The outcome of a step: at the boundary the transient state is UNSPECIFIED (10_state R40); a fault
is recorded (R277). -/
def finishStep : Run → Host.Outcome State Fault Refusal
  | .ok s => .next s.forgetTransients
  | .error (f, s) => .next (s.raiseFault f)

/-- An instruction step of a decoded instruction: Fetch, Decode and the microprogram on the
instruction's own cells, then `settle` for what the spec leaves open. -/
def executeWith (i : Instr) (p : CellReader → Microprogram) (settle : State → State) (s : State) :
    Host.Outcome State Fault Refusal :=
  finishStep ((instructionStep (givenCells (encode i)) p s).map settle)

/-- An instruction step of a decoded instruction that leaves nothing open. -/
def execute (i : Instr) (p : CellReader → Microprogram) (s : State) :
    Host.Outcome State Fault Refusal := executeWith i p id s

/-- A step that ends in Decode: no microprogram is selected, the machine halts (R135, 60_exceptions
R271). A fault of the Fetch comes first (R278). -/
def haltStep (read : Transaction) (s : State) : Host.Outcome State Fault Refusal :=
  match runTransactions (fetchDecode read) s with
  | .ok s' => .next s'.halt
  | .error (f, s') => .next (s'.raiseFault f)

end Sys2Proof.Machine
end

