-- ==== Sys2Proof/Machine/AddSub.lean ====
section
/-! DEFINITION. `add` and `sub`, opcodes 0 to 7 (41_add_sub R160 to R169), as their reference
microprograms (47_microprograms R231 to R238). The source operand is cell 1, the destination cell 2
(R160 (a), decision D8; log 12); the result is destination plus or minus source. -/

namespace Sys2Proof.Machine

open Sys2Proof.Config

/-- The flag derivation of `add` (R160 (d), `ADD_UPDATES_FLAGS`; log 11). -/
def addFlags (P : Params) (b : Bus) : List Transaction := if P.addUpdatesFlags then [.deriveFlags b] else []

/-- A register source parked in slot 0 (R230 (b)). -/
def regToSlot0 (read : Transaction) : List Transaction := regOperand read ++ [.rfInternalRead, .aluStore .slot0]

/-- A memory source parked in slot 0. -/
def memToSlot0 (read : Transaction) : List Transaction :=
  memSource read ++ bridgeIn ++ [.aluInternalStore .slot0]

/-- An immediate source parked in slot 0. -/
def immToSlot0 (read : Transaction) : List Transaction :=
  immOperand read ++ bridgeIn ++ [.aluInternalStore .slot0]

/-- `add` into the register of the second cell: R231 and R232 from their second line on. -/
def addIntoRegister (P : Params) (read : Transaction) : List Transaction :=
  regOperand read ++ [.rfInternalRead, .aluStore .slot1, .aluCommand .add, .aluRead .slot1] ++
    addFlags P .int1 ++ [.rfInternalStore] ++ pcadv

/-- `add` into the memory cell of the second operand: R233 and R234 from their second line on. -/
def addIntoMemory (P : Params) (read : Transaction) : List Transaction :=
  memDestination read ++ [.memRead] ++ bridgeIn ++
    [.aluInternalStore .slot1, .aluCommand .add, .aluInternalRead .slot1] ++ addFlags P .int2 ++
    bridgeOut ++ [.memStore] ++ pcadv

/-- `sub` from the register of the second cell: R235 and R236 from their second line on. The roles of
the slots are exchanged, because `alu.sub()` computes slot 0 minus slot 1 (R230 (c)). -/
def subFromRegister (read : Transaction) : List Transaction :=
  regOperand read ++ [.rfInternalRead, .aluInternalRead .slot0, .aluStore .slot0, .aluInternalStore .slot1,
    .aluCommand .sub, .aluRead .slot1, .deriveFlags .int1, .rfInternalStore] ++ pcadv

/-- `sub` from the memory cell of the second operand: R237 and R238 from their second line on. -/
def subFromMemory (read : Transaction) : List Transaction :=
  memDestination read ++ [.memRead] ++ bridgeIn ++
    [.aluRead .slot0, .aluInternalStore .slot0, .aluStore .slot1, .aluCommand .sub, .aluInternalRead .slot1,
      .deriveFlags .int2] ++ bridgeOut ++ [.memStore] ++ pcadv

/-- R231. -/
def addRegRegProgram (P : Params) (cells : CellReader) : Microprogram :=
  ⟨regToSlot0 (cells 1) ++ addIntoRegister P (cells 2), none⟩

/-- R232. -/
def addMemRegProgram (P : Params) (cells : CellReader) : Microprogram :=
  ⟨memToSlot0 (cells 1) ++ addIntoRegister P (cells 2), none⟩

/-- R233. -/
def addRegMemProgram (P : Params) (cells : CellReader) : Microprogram :=
  ⟨regToSlot0 (cells 1) ++ addIntoMemory P (cells 2), none⟩

/-- R234. -/
def addImmMemProgram (P : Params) (cells : CellReader) : Microprogram :=
  ⟨immToSlot0 (cells 1) ++ addIntoMemory P (cells 2), none⟩

/-- R235. -/
def subRegRegProgram (cells : CellReader) : Microprogram :=
  ⟨regToSlot0 (cells 1) ++ subFromRegister (cells 2), none⟩

/-- R236. -/
def subMemRegProgram (cells : CellReader) : Microprogram :=
  ⟨memToSlot0 (cells 1) ++ subFromRegister (cells 2), none⟩

/-- R237. -/
def subRegMemProgram (cells : CellReader) : Microprogram :=
  ⟨regToSlot0 (cells 1) ++ subFromMemory (cells 2), none⟩

/-- R238. -/
def subImmMemProgram (cells : CellReader) : Microprogram :=
  ⟨immToSlot0 (cells 1) ++ subFromMemory (cells 2), none⟩

/-- What R313 leaves open for a register destination `b`, if `special` holds of the operands. -/
def settleRegister (setsFlags special : Bool) (b : Int) (s : State) : State :=
  if special then s.openRegisterResult setsFlags b else s

/-- What R313 leaves open for a memory destination `m`, if `special` holds of the operands. -/
def settleMemory (setsFlags special : Bool) (m : Int) (s : State) : State :=
  if special then s.openMemoryResult setsFlags m else s

/-- `addRegReg` (R161). -/
def execAddRegReg (a b : Int) (s : State) : Host.Outcome State Fault Refusal :=
  executeWith (.addRegReg a b) (addRegRegProgram s.params)
    (settleRegister s.params.addUpdatesFlags (namesSpecial s.params a || namesSpecial s.params b) b) s

/-- `addMemReg` (R162). -/
def execAddMemReg (m b : Int) (s : State) : Host.Outcome State Fault Refusal :=
  executeWith (.addMemReg m b) (addMemRegProgram s.params)
    (settleRegister s.params.addUpdatesFlags (namesSpecial s.params b) b) s

/-- `addRegMem` (R163). -/
def execAddRegMem (a m : Int) (s : State) : Host.Outcome State Fault Refusal :=
  executeWith (.addRegMem a m) (addRegMemProgram s.params)
    (settleMemory s.params.addUpdatesFlags (namesSpecial s.params a) m) s

/-- `addImmMem` (R164). -/
def execAddImmMem (i m : Int) (s : State) : Host.Outcome State Fault Refusal :=
  execute (.addImmMem i m) (addImmMemProgram s.params) s

/-- `subRegReg` (R165). -/
def execSubRegReg (a b : Int) (s : State) : Host.Outcome State Fault Refusal :=
  executeWith (.subRegReg a b) subRegRegProgram
    (settleRegister true (namesSpecial s.params a || namesSpecial s.params b) b) s

/-- `subMemReg` (R166). -/
def execSubMemReg (m b : Int) (s : State) : Host.Outcome State Fault Refusal :=
  executeWith (.subMemReg m b) subMemRegProgram (settleRegister true (namesSpecial s.params b) b) s

/-- `subRegMem` (R167). -/
def execSubRegMem (a m : Int) (s : State) : Host.Outcome State Fault Refusal :=
  executeWith (.subRegMem a m) subRegMemProgram (settleMemory true (namesSpecial s.params a) m) s

/-- `subImmMem` (R168). -/
def execSubImmMem (i m : Int) (s : State) : Host.Outcome State Fault Refusal :=
  execute (.subImmMem i m) subImmMemProgram s

end Sys2Proof.Machine
end

