-- ==== Sys2Proof/Machine/Inc.lean ====
section
/-! DEFINITION. `inc`, opcodes 15 and 16 (43_inc R190 to R192), as their reference microprograms
(47_microprograms R243, R244). -/

namespace Sys2Proof.Machine

/-- R243. -/
def incRegProgram (cells : CellReader) : Microprogram :=
  ⟨regOperand (cells 1) ++ [.rfInternalRead, .aluStore .slot1, .aluCommand .inc, .aluRead .slot1,
    .deriveFlags .int1, .rfInternalStore] ++ pcadv, none⟩

/-- R244. -/
def incMemProgram (cells : CellReader) : Microprogram :=
  ⟨memDestination (cells 1) ++ [.memRead] ++ bridgeIn ++
    [.aluInternalStore .slot1, .aluCommand .inc, .aluInternalRead .slot1, .deriveFlags .int2] ++
    bridgeOut ++ [.memStore] ++ pcadv, none⟩

/-- `incReg` (R191). -/
def execIncReg (a : Int) (s : State) : Host.Outcome State Fault Refusal :=
  executeWith (.incReg a) incRegProgram (settleRegister true (namesSpecial s.params a) a) s

/-- `incMem` (R192). -/
def execIncMem (m : Int) (s : State) : Host.Outcome State Fault Refusal :=
  execute (.incMem m) incMemProgram s

end Sys2Proof.Machine
end

