-- ==== Sys2Proof/Machine/Jumps.lean ====
section
/-! DEFINITION. The seven jumps, opcodes 17 to 23 (44_jumps R200 to R204, 45_compare_jumps R210 to
R213), as their reference microprograms (47_microprograms R245 to R251). The target cell is read
whether or not the jump is taken (decision D19). No jump changes the flags (decisions D10, D11).
Log 16. -/

namespace Sys2Proof.Machine

/-- R245: a taken jump makes no final `PCADV` (R136). -/
def jmpProgram (cells : CellReader) : Microprogram := ⟨immOperand (cells 1) ++ [.regStore .pc], none⟩

/-- R246. -/
def jnProgram (cells : CellReader) : Microprogram := ⟨immOperand (cells 1), some .negative⟩

/-- R247. -/
def jzProgram (cells : CellReader) : Microprogram := ⟨immOperand (cells 1), some .zero⟩

/-- R248. -/
def jnzProgram (cells : CellReader) : Microprogram := ⟨immOperand (cells 1), some .nonzero⟩

/-- The two comparands subtracted, the difference on internal bus 1, the target on the external bus
(R249). -/
def compareBody (cells : CellReader) : List Transaction :=
  regOperand (cells 1) ++ [.rfInternalRead, .aluStore .slot0] ++
    regOperand (cells 2) ++ [.rfInternalRead, .aluStore .slot1] ++
    [.aluCommand .sub, .aluRead .slot1] ++ immOperand (cells 3)

/-- R249. -/
def jeqProgram (cells : CellReader) : Microprogram := ⟨compareBody cells, some .differenceZero⟩

/-- R250. -/
def jgtProgram (cells : CellReader) : Microprogram := ⟨compareBody cells, some .differencePositive⟩

/-- R251. -/
def jlwProgram (cells : CellReader) : Microprogram := ⟨compareBody cells, some .differenceNegative⟩

/-- What R313 (and R210 (c)) leave open of a compare jump of four cells at `pc0`. -/
def settleBranch (isOpen : Bool) (t pc0 : Int) (s : State) : State :=
  if isOpen then s.openBranch t (s.toWord (pc0 + 4)) else s

/-- `jmp` (R201). -/
def execJmp (t : Int) (s : State) : Host.Outcome State Fault Refusal := execute (.jmp t) jmpProgram s

/-- `jn` (R202). -/
def execJn (t : Int) (s : State) : Host.Outcome State Fault Refusal := execute (.jn t) jnProgram s

/-- `jz` (R203). -/
def execJz (t : Int) (s : State) : Host.Outcome State Fault Refusal := execute (.jz t) jzProgram s

/-- `jnz` (R204). -/
def execJnz (t : Int) (s : State) : Host.Outcome State Fault Refusal := execute (.jnz t) jnzProgram s

/-- `jeq` (R211): exact for all general-purpose operands, overflow or not. -/
def execJeq (a b t : Int) (s : State) : Host.Outcome State Fault Refusal :=
  executeWith (.jeq a b t) jeqProgram (settleBranch (namesSpecial s.params a || namesSpecial s.params b) t s.pc) s

/-- `jgt` (R212). -/
def execJgt (a b t : Int) (s : State) : Host.Outcome State Fault Refusal :=
  executeWith (.jgt a b t) jgtProgram
    (settleBranch (namesSpecial s.params a || namesSpecial s.params b || s.comparisonOpen a b) t s.pc) s

/-- `jlw` (R213). -/
def execJlw (a b t : Int) (s : State) : Host.Outcome State Fault Refusal :=
  executeWith (.jlw a b t) jlwProgram
    (settleBranch (namesSpecial s.params a || namesSpecial s.params b || s.comparisonOpen a b) t s.pc) s

end Sys2Proof.Machine
end

