-- ==== Sys2Proof/Machine/Move.lean ====
section
/-! DEFINITION. `move` and `ldi`, opcodes 11 to 14 and 24 (42_move R180 to R184, 46_ldi R220 to
R222), as their reference microprograms (47_microprograms R239 to R242, R252). They use the external
side of the register file only, so they reach PC, IR and Flags too, with the effects of
70_reset_and_hazards R314 (log 10). -/

namespace Sys2Proof.Machine

/-- The word in IR into the register of the second cell (R239, R241, R242: their last lines). -/
def moveIntoRegister (read : Transaction) : List Transaction :=
  regOperand read ++ [.regRead .ir, .rfStore] ++ pcadv

/-- R239. -/
def moveMemRegProgram (cells : CellReader) : Microprogram :=
  ⟨memSource (cells 1) ++ [.regStore .ir] ++ moveIntoRegister (cells 2), none⟩

/-- R240. -/
def moveRegMemProgram (cells : CellReader) : Microprogram :=
  ⟨regOperand (cells 1) ++ memDestination (cells 2) ++ [.rfRead, .memStore] ++ pcadv, none⟩

/-- R241. -/
def moveRegRegProgram (cells : CellReader) : Microprogram :=
  ⟨regOperand (cells 1) ++ [.rfRead, .regStore .ir] ++ moveIntoRegister (cells 2), none⟩

/-- R242. -/
def moveImmRegProgram (cells : CellReader) : Microprogram :=
  ⟨immOperand (cells 1) ++ [.regStore .ir] ++ moveIntoRegister (cells 2), none⟩

/-- R252. -/
def ldiProgram (cells : CellReader) : Microprogram :=
  ⟨regOperand (cells 1) ++ immOperand (cells 2) ++ [.rfStore] ++ pcadv, none⟩

/-- `moveMemReg` (R181). -/
def execMoveMemReg (m b : Int) (s : State) : Host.Outcome State Fault Refusal :=
  execute (.moveMemReg m b) moveMemRegProgram s

/-- `moveRegMem` (R182). -/
def execMoveRegMem (a m : Int) (s : State) : Host.Outcome State Fault Refusal :=
  execute (.moveRegMem a m) moveRegMemProgram s

/-- `moveRegReg` (R183). -/
def execMoveRegReg (a b : Int) (s : State) : Host.Outcome State Fault Refusal :=
  execute (.moveRegReg a b) moveRegRegProgram s

/-- `moveImmReg` (R184). -/
def execMoveImmReg (i b : Int) (s : State) : Host.Outcome State Fault Refusal :=
  execute (.moveImmReg i b) moveImmRegProgram s

/-- `ldi` (R221). -/
def execLdi (a i : Int) (s : State) : Host.Outcome State Fault Refusal :=
  execute (.ldi a i) ldiProgram s

end Sys2Proof.Machine
end

