-- ==== Sys2Proof/Machine/Reserved.lean ====
section
/-! DEFINITION. The reserved opcodes 8, 9 and 10, and every word that matches no opcode
(30_encoding R96, R97, 60_exceptions R271): Decode finds no microprogram and the machine halts, with
`pc` at the cell and the word in `ir`. Halting is the effect the spec gives them, so it is a next
state. -/

namespace Sys2Proof.Machine

/-- Opcode 8 (R97, R271). -/
def execReserved8 (s : State) : Host.Outcome State Fault Refusal := haltStep (.cellRead 8) s

/-- Opcode 9 (R97, R271). -/
def execReserved9 (s : State) : Host.Outcome State Fault Refusal := haltStep (.cellRead 9) s

/-- Opcode 10 (R97, R271). -/
def execReserved10 (s : State) : Host.Outcome State Fault Refusal := haltStep (.cellRead 10) s

/-- The step when the cell at `pc` matches no opcode, or is outside memory (R271, R272 (a)). -/
def execUnmatched (s : State) : Host.Outcome State Fault Refusal := haltStep .memRead s

end Sys2Proof.Machine
end

