-- ==== Sys2Proof/Machine/Dispatch.lean ====
section
/-! DEFINITION. The dispatch: one arm for each instruction. -/

namespace Sys2Proof.Machine

def exec (i : Instr) (s : State) : Host.Outcome State Fault Refusal :=
  match i with
  | .addRegReg a b => Sys2Proof.Machine.execAddRegReg a b s
  | .addMemReg m b => Sys2Proof.Machine.execAddMemReg m b s
  | .addRegMem a m => Sys2Proof.Machine.execAddRegMem a m s
  | .addImmMem x m => Sys2Proof.Machine.execAddImmMem x m s
  | .subRegReg a b => Sys2Proof.Machine.execSubRegReg a b s
  | .subMemReg m b => Sys2Proof.Machine.execSubMemReg m b s
  | .subRegMem a m => Sys2Proof.Machine.execSubRegMem a m s
  | .subImmMem x m => Sys2Proof.Machine.execSubImmMem x m s
  | .reserved8 => Sys2Proof.Machine.execReserved8 s
  | .reserved9 => Sys2Proof.Machine.execReserved9 s
  | .reserved10 => Sys2Proof.Machine.execReserved10 s
  | .moveMemReg m b => Sys2Proof.Machine.execMoveMemReg m b s
  | .moveRegMem a m => Sys2Proof.Machine.execMoveRegMem a m s
  | .moveRegReg a b => Sys2Proof.Machine.execMoveRegReg a b s
  | .moveImmReg x b => Sys2Proof.Machine.execMoveImmReg x b s
  | .incReg a => Sys2Proof.Machine.execIncReg a s
  | .incMem m => Sys2Proof.Machine.execIncMem m s
  | .jmp t => Sys2Proof.Machine.execJmp t s
  | .jn t => Sys2Proof.Machine.execJn t s
  | .jz t => Sys2Proof.Machine.execJz t s
  | .jnz t => Sys2Proof.Machine.execJnz t s
  | .jeq a b t => Sys2Proof.Machine.execJeq a b t s
  | .jgt a b t => Sys2Proof.Machine.execJgt a b t s
  | .jlw a b t => Sys2Proof.Machine.execJlw a b t s
  | .ldi a x => Sys2Proof.Machine.execLdi a x s

end Sys2Proof.Machine
end

