-- ==== Sys2Proof/Machine/Fetch.lean ====
section
/-! DEFINITION. Reading the instruction at the program counter, and writing one there
(30_encoding R90, 40_micro_operations R134, R135). -/

namespace Sys2Proof.Machine

/-- The address of the cell `k` after `pc` (R90): what `k` advances of the program counter (R131) make of
`pc`. -/
def State.cellAddress (s : State) : Nat → Int
  | 0 => s.pc
  | k + 1 => s.toWord (s.cellAddress k + 1)

/-- The word of the cell `k` after `pc`. A cell outside memory is given as 0: the word is never used,
because the microprogram checks the cell's address first and raises the fault (R272 (b); log 19). -/
def State.streamCell (s : State) (k : Nat) : Int :=
  if inRange s.params (s.cellAddress k) then readCell s.mem (s.cellAddress k).toNat else 0

/-- The four cells (the longest instruction, R90) from `pc` on. -/
def State.streamCells (s : State) : List Int :=
  [s.streamCell 0, s.streamCell 1, s.streamCell 2, s.streamCell 3]

/-- The instruction at `pc`; `none` where `pc` is outside memory or its cell matches no opcode. -/
def State.instructionAtPc (s : State) : Option Instr :=
  if inRange s.params s.pc then
    match decode s.streamCells with
    | .ok (i, _) => some i
    | .error _ => none
  else none

/-- `s` with an opcode-table word stored at `pc` as the next instruction to run: the four cells of the
longest instruction are written as words of the machine, the machine is RUNNING, and `pc` is 0 where
those cells do not all lie in memory. Log 21. -/
def State.placeTableWord (s : State) (nbits w : Nat) : State :=
  let pc := if 0 ≤ s.pc ∧ s.pc + 4 ≤ s.params.memSize then s.pc else 0
  { s with
    pc := pc
    status := .running
    mem := writeCells s.params.memSize s.mem pc.toNat ((tableCells nbits w).map s.toWord) }

end Sys2Proof.Machine
end

