-- ==== Sys2Proof/Machine/Step.lean ====
section
/-! DEFINITION. One step of the machine (40_micro_operations R137). -/

namespace Sys2Proof.Machine

/-- One iteration of the control unit's loop (R137). A machine that is HALTED or in FAULT does
nothing (60_exceptions R270, 93 part 2; log 15). -/
def step (s : State) : Host.Outcome State Fault Refusal :=
  match s.status with
  | .running =>
    match s.instructionAtPc with
    | some i => exec i s
    | none => execUnmatched s
  | .halted => .next s
  | .fault _ => .next s

/-- `s` with an opcode-table word stored where the next step fetches. -/
def State.withFetchWord (s : State) (nbits w : Nat) : State := s.placeTableWord nbits w

end Sys2Proof.Machine
end

