-- ==== Sys2Proof/Machine/Cycle.lean ====
section
/-! DEFINITION. The control unit's cycle written at the transaction level alone (40_micro_operations
R134 to R137): no instruction is decoded to a term, every cell is read by `mem.read()`, and the
microprogram table is indexed by the word in IR. It leaves nothing open of 70_reset_and_hazards R313:
there it computes from what the buses happen to hold. `step` is the machine; this second description
is what it is compared with (log 19). -/

namespace Sys2Proof.Machine

/-- The microprogram table (R135): one routine for each implemented opcode, matched by the whole word. -/
def microprogram (P : Config.Params) (op : Int) : Option (CellReader → Microprogram) :=
  match op with
  | 0 => some (addRegRegProgram P)
  | 1 => some (addMemRegProgram P)
  | 2 => some (addRegMemProgram P)
  | 3 => some (addImmMemProgram P)
  | 4 => some subRegRegProgram
  | 5 => some subMemRegProgram
  | 6 => some subRegMemProgram
  | 7 => some subImmMemProgram
  | 11 => some moveMemRegProgram
  | 12 => some moveRegMemProgram
  | 13 => some moveRegRegProgram
  | 14 => some moveImmRegProgram
  | 15 => some incRegProgram
  | 16 => some incMemProgram
  | 17 => some jmpProgram
  | 18 => some jnProgram
  | 19 => some jzProgram
  | 20 => some jnzProgram
  | 21 => some jeqProgram
  | 22 => some jgtProgram
  | 23 => some jlwProgram
  | 24 => some ldiProgram
  | _ => none

/-- One iteration of the loop of R137: Fetch, Decode, Execute, every cell read from memory. -/
def cycle (s : State) : Host.Outcome State Fault Refusal :=
  match s.status with
  | .running =>
    match runTransactions (fetchDecode .memRead) s with
    | .error (f, s') => .next (s'.raiseFault f)
    | .ok s' =>
      match microprogram s'.params (s'.busGet .int2) with
      | none => .next s'.halt
      | some p => finishStep ((p memoryCells).run s')
  | .halted => .next s
  | .fault _ => .next s

/-! ### Counts (47_microprograms R254, 20_memory R64) -/

/-- Memory reads among transactions. -/
def memoryReads (ts : List Transaction) : Nat :=
  ts.countP fun t => match t with
    | .memRead => true
    | .cellRead _ => true
    | _ => false

/-- Calls of `mem.store()` among transactions; two of them make one write (R127). -/
def storeCalls (ts : List Transaction) : Nat := ts.countP (· == .memStore)

/-- All transactions of a step with the given decision of a conditional ending, Fetch and Decode
included (Decode's match is counted in its bus transaction). -/
def stepTransactions (p : CellReader → Microprogram) (taken : Bool) : List Transaction :=
  fetchDecode .memRead ++ (p memoryCells).body ++
    match (p memoryCells).test with
    | none => []
    | some _ => chosenEnding taken

end Sys2Proof.Machine
end

