-- ==== Sys2Proof/Machine/Launch.lean ====
section
/-! DEFINITION. The launch contract (70_reset_and_hazards R302, R304, R305): the environment resets
the machine and writes an object image, both from outside the instruction set (log 21). -/

namespace Sys2Proof.Machine

/-- The cells of an object image before the sentinel: the loader stops at the first `-1` (R305). -/
def objectCells (object : List Int) : List Int := object.takeWhile fun v => decide (v ≠ Config.sentinel)

/-- The requirement `n + 1 <= N` of R304, and that the image consists of words. -/
def objectFits (P : Config.Params) (object : List Int) : Bool :=
  decide ((objectCells object).length + 1 ≤ P.memSize) && (objectCells object).all (isWord P.xlen)

/-- The loader (R304): consecutive cells from address 0, then the sentinel; the other cells keep what
they hold. -/
def State.loadObject (s : State) (object : List Int) : State :=
  { s with mem := writeCells s.params.memSize s.mem 0 (objectCells object ++ [Config.sentinel]) }

/-- The machine with parameters `P` at the start of a run (R302): reset, memory at its initial contents
`memInit` (the launch parameter `MEM_INIT` of R7 and R304, any word for each cell, decision D16; log 5),
and the object image loaded. -/
def State.launch (P : Config.Params) (memInit : Memory) (object : List Int) : State :=
  ({ State.resetWith P with mem := memInit } : State).loadObject object

end Sys2Proof.Machine
end

