-- ==== Sys2Proof/Machine/Rules.lean ====
section
/-! DEFINITION. The instruction-level rules (00_scope R8 (a), R11), transcribed as functions of the
architectural state: the pseudocode of 41_add_sub R161 to R168, 42_move R181 to R184, 43_inc R191 and
R192, 44_jumps R201 to R204, 45_compare_jumps R211 to R213 and 46_ldi R221, with the effects of
70_reset_and_hazards R314 for a move or `ldi` that names PC, IR or Flags. They are the second level of
the description, written apart from the microprograms that `exec` runs; the two are stated equal. -/

namespace Sys2Proof.Machine

open Sys2Proof.Config

/-- What a statement of the pseudocode answers: a value, or an event with the `pc` it leaves, the
address of the cell being processed (60_exceptions R277). -/
abbrev RuleRun := Except (Fault × Int)

/-- `wrap(v)` (00_scope R9). -/
def Arch.wrap (m : Arch) (v : Int) : Int := Sys2Proof.wrap m.params.xlen v

/-- `wrap(pc0 + k)`: the address of cell `k` of the instruction (R11, R90). -/
def Arch.cellAddress (m : Arch) (k : Nat) : Int := m.wrap (m.pc + k)

/-- `cell(k)` (R11): one memory read at `wrap(pc0 + k)`. -/
def Arch.cell (m : Arch) (k : Nat) : RuleRun Int :=
  if inRange m.params (m.cellAddress k) then .ok (readCell m.mem (m.cellAddress k).toNat)
  else .error (.addressOutOfRange (m.cellAddress k), m.cellAddress k)

/-- `RegId(v)` (R11), the word `v` of cell `k`. -/
def Arch.regId (m : Arch) (k : Nat) (v : Int) : RuleRun Reg :=
  match regOfId m.params v with
  | some r => .ok r
  | none => .error (.registerIdOutOfRange v, m.cellAddress k)

/-- `MemCheck(a)` (R11), the word `a` of cell `k`. -/
def Arch.memCheck (m : Arch) (k : Nat) (a : Int) : RuleRun Unit :=
  if inRange m.params a then .ok () else .error (.addressOutOfRange a, m.cellAddress k)

/-- `M[a]`. -/
def Arch.memory (m : Arch) (a : Int) : Int := readCell m.mem a.toNat

/-- `x[r]` of a general-purpose register; IR is not architectural. -/
def Arch.reg (m : Arch) : Reg → Int
  | .gpr i => m.gpr.getD i 0
  | .pc => m.pc
  | .ir => 0
  | .flags => flagsToWord m.flags

/-- `x[r] <- v`. -/
def Arch.setReg (m : Arch) (r : Reg) (v : Int) : Arch :=
  match r with
  | .gpr i => { m with gpr := m.gpr.set i v }
  | .pc => { m with pc := v }
  | .ir => m
  | .flags => { m with flags := flagsOfWord v }

/-- `M[a] <- v`. -/
def Arch.setMemory (m : Arch) (a v : Int) : Arch := { m with mem := writeCell m.mem a.toNat v }

/-- `SetFlags(r)`. -/
def Arch.setFlags (m : Arch) (r : Int) : Arch := { m with flags := flagsOf m.params r }

/-- `SetFlags(r)` of an `add` (R160 (d), `ADD_UPDATES_FLAGS`). -/
def Arch.setAddFlags (m : Arch) (r : Int) : Arch := if m.params.addUpdatesFlags then m.setFlags r else m

/-- `pc <- wrap(pc0 + n)`, where `pc` still is `pc0`. -/
def Arch.advance (m : Arch) (n : Nat) : Arch := { m with pc := m.cellAddress n }

/-! ### add (R161 to R164) -/

/-- R161. -/
def Arch.addRegReg (m : Arch) : RuleRun Arch := do
  let a ← m.regId 1 (← m.cell 1)
  let b ← m.regId 2 (← m.cell 2)
  let r := m.wrap (m.reg b + m.reg a)
  return (((m.setAddFlags r).advance 3).setReg b r)

/-- R162. -/
def Arch.addMemReg (m : Arch) : RuleRun Arch := do
  let c1 ← m.cell 1
  m.memCheck 1 c1
  let b ← m.regId 2 (← m.cell 2)
  let r := m.wrap (m.reg b + m.memory c1)
  return (((m.setAddFlags r).advance 3).setReg b r)

/-- R163. -/
def Arch.addRegMem (m : Arch) : RuleRun Arch := do
  let a ← m.regId 1 (← m.cell 1)
  let c2 ← m.cell 2
  m.memCheck 2 c2
  let r := m.wrap (m.memory c2 + m.reg a)
  return (((m.setAddFlags r).setMemory c2 r).advance 3)

/-- R164. -/
def Arch.addImmMem (m : Arch) : RuleRun Arch := do
  let i ← m.cell 1
  let c2 ← m.cell 2
  m.memCheck 2 c2
  let r := m.wrap (m.memory c2 + i)
  return (((m.setAddFlags r).setMemory c2 r).advance 3)

/-! ### sub (R165 to R168) -/

/-- R165. -/
def Arch.subRegReg (m : Arch) : RuleRun Arch := do
  let a ← m.regId 1 (← m.cell 1)
  let b ← m.regId 2 (← m.cell 2)
  let r := m.wrap (m.reg b - m.reg a)
  return (((m.setFlags r).advance 3).setReg b r)

/-- R166. -/
def Arch.subMemReg (m : Arch) : RuleRun Arch := do
  let c1 ← m.cell 1
  m.memCheck 1 c1
  let b ← m.regId 2 (← m.cell 2)
  let r := m.wrap (m.reg b - m.memory c1)
  return (((m.setFlags r).advance 3).setReg b r)

/-- R167. -/
def Arch.subRegMem (m : Arch) : RuleRun Arch := do
  let a ← m.regId 1 (← m.cell 1)
  let c2 ← m.cell 2
  m.memCheck 2 c2
  let r := m.wrap (m.memory c2 - m.reg a)
  return (((m.setFlags r).setMemory c2 r).advance 3)

/-- R168. -/
def Arch.subImmMem (m : Arch) : RuleRun Arch := do
  let i ← m.cell 1
  let c2 ← m.cell 2
  m.memCheck 2 c2
  let r := m.wrap (m.memory c2 - i)
  return (((m.setFlags r).setMemory c2 r).advance 3)

/-! ### move and ldi (R181 to R184, R221), with R314 -/

/-- The word a move reads from a register after `k` program-counter advances, in the instruction with
opcode `op` (R314): PC has walked to cell `k`, IR still holds the opcode. -/
def Arch.moveSource (m : Arch) (op : Int) (k : Nat) : Reg → Int
  | .gpr i => m.gpr.getD i 0
  | .pc => m.cellAddress k
  | .ir => op
  | .flags => flagsToWord m.flags

/-- A word moved into a register by an instruction of three cells (R314): a store into PC is followed
by the final advance, a store into IR has no architectural effect. -/
def Arch.moveInto (m : Arch) (r : Reg) (v : Int) : Arch :=
  match r with
  | .gpr _ => (m.advance 3).setReg r v
  | .pc => { m with pc := m.wrap (v + 1) }
  | .ir => m.advance 3
  | .flags => (m.advance 3).setReg r v

/-- R181. -/
def Arch.moveMemReg (m : Arch) : RuleRun Arch := do
  let c1 ← m.cell 1
  m.memCheck 1 c1
  let b ← m.regId 2 (← m.cell 2)
  return m.moveInto b (m.memory c1)

/-- R182: PC is read after the second advance. -/
def Arch.moveRegMem (m : Arch) : RuleRun Arch := do
  let a ← m.regId 1 (← m.cell 1)
  let c2 ← m.cell 2
  m.memCheck 2 c2
  return (m.setMemory c2 (m.moveSource 12 2 a)).advance 3

/-- R183: PC is read after the first advance. -/
def Arch.moveRegReg (m : Arch) : RuleRun Arch := do
  let a ← m.regId 1 (← m.cell 1)
  let b ← m.regId 2 (← m.cell 2)
  return m.moveInto b (m.moveSource 13 1 a)

/-- R184. -/
def Arch.moveImmReg (m : Arch) : RuleRun Arch := do
  let i ← m.cell 1
  let b ← m.regId 2 (← m.cell 2)
  return m.moveInto b i

/-- R221. -/
def Arch.ldi (m : Arch) : RuleRun Arch := do
  let a ← m.regId 1 (← m.cell 1)
  let i ← m.cell 2
  return m.moveInto a i

/-! ### inc (R191, R192) -/

/-- R191. -/
def Arch.incReg (m : Arch) : RuleRun Arch := do
  let a ← m.regId 1 (← m.cell 1)
  let r := m.wrap (m.reg a + 1)
  return (((m.setFlags r).advance 2).setReg a r)

/-- R192. -/
def Arch.incMem (m : Arch) : RuleRun Arch := do
  let c1 ← m.cell 1
  m.memCheck 1 c1
  let r := m.wrap (m.memory c1 + 1)
  return (((m.setFlags r).setMemory c1 r).advance 2)

/-! ### Jumps (R201 to R204, R211 to R213) -/

/-- `if taken then pc <- t else pc <- wrap(pc0 + n)`. -/
def Arch.jumpIf (m : Arch) (taken : Bool) (t : Int) (n : Nat) : Arch :=
  if taken then { m with pc := t } else m.advance n

/-- R201. -/
def Arch.jmp (m : Arch) : RuleRun Arch := do
  let t ← m.cell 1
  return { m with pc := t }

/-- R202. -/
def Arch.jn (m : Arch) : RuleRun Arch := do
  let t ← m.cell 1
  return m.jumpIf (negativeFlag m.params m.flags) t 2

/-- R203. -/
def Arch.jz (m : Arch) : RuleRun Arch := do
  let t ← m.cell 1
  return m.jumpIf (zeroFlag m.params m.flags) t 2

/-- R204. -/
def Arch.jnz (m : Arch) : RuleRun Arch := do
  let t ← m.cell 1
  return m.jumpIf (nonzeroFlag m.params m.flags) t 2

/-- R211. -/
def Arch.jeq (m : Arch) : RuleRun Arch := do
  let a ← m.regId 1 (← m.cell 1)
  let b ← m.regId 2 (← m.cell 2)
  let t ← m.cell 3
  return m.jumpIf (decide (m.wrap (m.reg a - m.reg b) = 0)) t 4

/-- R212. -/
def Arch.jgt (m : Arch) : RuleRun Arch := do
  let a ← m.regId 1 (← m.cell 1)
  let b ← m.regId 2 (← m.cell 2)
  let t ← m.cell 3
  return m.jumpIf (decide (0 < m.wrap (m.reg a - m.reg b))) t 4

/-- R213. -/
def Arch.jlw (m : Arch) : RuleRun Arch := do
  let a ← m.regId 1 (← m.cell 1)
  let b ← m.regId 2 (← m.cell 2)
  let t ← m.cell 3
  return m.jumpIf (decide (m.wrap (m.reg a - m.reg b) < 0)) t 4

/-! ### The step -/

/-- The rule of an opcode; every other word halts (R96, R271). -/
def Arch.execute (m : Arch) (op : Int) : RuleRun Arch :=
  match op with
  | 0 => m.addRegReg
  | 1 => m.addMemReg
  | 2 => m.addRegMem
  | 3 => m.addImmMem
  | 4 => m.subRegReg
  | 5 => m.subMemReg
  | 6 => m.subRegMem
  | 7 => m.subImmMem
  | 11 => m.moveMemReg
  | 12 => m.moveRegMem
  | 13 => m.moveRegReg
  | 14 => m.moveImmReg
  | 15 => m.incReg
  | 16 => m.incMem
  | 17 => m.jmp
  | 18 => m.jn
  | 19 => m.jz
  | 20 => m.jnz
  | 21 => m.jeq
  | 22 => m.jgt
  | 23 => m.jlw
  | 24 => m.ldi
  | _ => .ok { m with status := .halted }

/-- The architectural state an answer of the pseudocode leaves (R11, R277): after an event only `pc`
and `status` differ. -/
def Arch.settle (m : Arch) : RuleRun Arch → Arch
  | .ok m' => m'
  | .error (f, pc) => { m with pc := pc, status := .fault f }

/-- One instruction step at the instruction level (R8 (a), R137, 60_exceptions R275). -/
def Arch.step (m : Arch) : Arch :=
  match m.status with
  | .running => m.settle (do m.execute (← m.cell 0))
  | .halted => m
  | .fault _ => m

/-- The register ids an instruction routes to the ALU (70_reset_and_hazards R313). -/
def aluRegisters : Instr → List Int
  | .addRegReg a b | .subRegReg a b | .jeq a b _ | .jgt a b _ | .jlw a b _ => [a, b]
  | .addMemReg _ b | .subMemReg _ b => [b]
  | .addRegMem a _ | .subRegMem a _ | .incReg a => [a]
  | .addImmMem _ _ | .subImmMem _ _ | .incMem _ => []
  | .reserved8 | .reserved9 | .reserved10 => []
  | .moveMemReg _ _ | .moveRegMem _ _ | .moveRegReg _ _ | .moveImmReg _ _ | .ldi _ _ => []
  | .jmp _ | .jn _ | .jz _ | .jnz _ => []

end Sys2Proof.Machine
end

