-- ==== Sys2Proof/Safety.lean ====
section
/-! DEFINITION. The terms claims are made in: the invariant of the machine, what a safe run is, and
when an instruction lies in memory. -/

namespace Sys2Proof.Machine

open Sys2Proof.Config

/-- Every register, bus, slot, latch and memory cell holds a word (00_scope R9). -/
def State.allWords (s : State) : Bool :=
  (s.gpr ++ [s.pc, s.ir, s.extbus, s.intbus1, s.intbus2, s.slot0, s.slot1, s.latch] ++
    s.mem.map Prod.snd).all (isWord s.params.xlen)

/-- The invariant every step keeps. -/
structure Invariant (s : State) : Prop where
  /-- the parameters meet their constraints (00_scope R7, 92 "Parameters left open") -/
  params : s.params.valid = true
  /-- there are `NGPR` general-purpose registers (10_state R21) -/
  registers : s.gpr.length = s.params.numGpr
  /-- everything that holds a word does (00_scope R9) -/
  words : s.allWords = true
  /-- the selector names a register of the machine (10_state R37) -/
  selector : s.params.hasReg s.sel = true
  /-- memory is in its canonical form (20_memory R60, R61) -/
  memory : s.mem.wf s.params.memSize = true
  /-- no store is half done (10_state R38: `phase` is IDLE at every instruction boundary) -/
  phase : s.phase = .idle

/-- `n` cells lie in memory from `pc` on. -/
def State.fits (s : State) (n : Nat) : Prop := 0 ≤ s.pc ∧ s.pc + n ≤ s.params.memSize

/-- The run has been aborted (10_state R33). -/
def State.faulted (s : State) : Prop := ∃ f, s.status = .fault f

/-- The run is over (60_exceptions R270). -/
def State.terminal (s : State) : Prop := s.status ≠ .running

/-- A step from `s` goes to `t`. -/
def StepsTo (s t : State) : Prop := step s = .next t

/-- The states of the runs of an object image on the machine with parameters `P` and initial memory
`memInit` (70_reset_and_hazards R302). -/
inductive Reachable (P : Params) (memInit : Memory) (object : List Int) : State → Prop
  | launch : Reachable P memInit object (State.launch P memInit object)
  | step {s t : State} : Reachable P memInit object s → StepsTo s t → Reachable P memInit object t

/-- A safe run: no reachable state is in FAULT. Ending in HALTED is safe (60_exceptions R271: "a
normal program-termination signal, not an exception"), and so is not ending (R318). -/
def SafeProgram (P : Params) (memInit : Memory) (object : List Int) : Prop :=
  ∀ s, Reachable P memInit object s → ¬ s.faulted

/-- Whether the decision of `jgt` or `jlw` is open on overflow (45_compare_jumps R210 (c)). -/
def State.leavesOrderOpen (s : State) : Instr → Bool
  | .jgt a b _ | .jlw a b _ => s.comparisonOpen a b
  | .addRegReg _ _ | .addMemReg _ _ | .addRegMem _ _ | .addImmMem _ _ => false
  | .subRegReg _ _ | .subMemReg _ _ | .subRegMem _ _ | .subImmMem _ _ => false
  | .reserved8 | .reserved9 | .reserved10 => false
  | .moveMemReg _ _ | .moveRegMem _ _ | .moveRegReg _ _ | .moveImmReg _ _ | .ldi _ _ => false
  | .incReg _ | .incMem _ | .jmp _ | .jn _ | .jz _ | .jnz _ | .jeq _ _ _ => false

/-- An ALU instruction with a register operand that names PC, IR or Flags (70_reset_and_hazards R313). -/
def State.namesSpecialOperand (s : State) (i : Instr) : Bool := (aluRegisters i).any (namesSpecial s.params)

/-- Whether instruction `i` leaves a result open: by 70_reset_and_hazards R313, or by 45_compare_jumps
R210 (c) under the setting `openBranch`. -/
def State.leavesOpen (s : State) (i : Instr) : Bool := s.namesSpecialOperand i || s.leavesOrderOpen i

/-- Whether the instruction at `pc` leaves a result open. -/
def State.leavesResultOpen (s : State) : Bool :=
  match s.instructionAtPc with
  | some i => s.leavesOpen i
  | none => false

/-- Memory holds the cells of an instruction from `pc` on, as far as they lie in memory
(30_encoding R90). -/
def State.holds (s : State) (i : Instr) : Prop :=
  ∀ k : Nat, k < i.length → inRange s.params (s.toWord (s.pc + k)) = true →
    readCell s.mem (s.toWord (s.pc + k)).toNat = (encode i).getD k 0

/-- Running `i` from `s` gives a next state whose architectural state is `m`; `phase` is unchanged. -/
def Completes (i : Instr) (s : State) (m : Arch) : Prop :=
  ∃ t, exec i s = .next t ∧ t.arch = m ∧ t.phase = s.phase

/-- Running `i` from `s` gives a next state in which cell `a` reads as `v`, every other cell reads as
before, and the rest of the architectural state is that of `m`; `phase` is unchanged. -/
def CompletesStoring (i : Instr) (s : State) (a v : Int) (m : Arch) : Prop :=
  ∃ t, exec i s = .next t ∧ t.arch = { m with mem := t.mem } ∧ t.phase = s.phase ∧
    readCell t.mem a.toNat = v ∧ ∀ b, b ≠ a.toNat → readCell t.mem b = readCell s.mem b

/-- The cell that names the register an instruction writes (10_state R23). -/
def registerDestination : Instr → Option Int
  | .addRegReg _ b | .addMemReg _ b | .subRegReg _ b | .subMemReg _ b => some b
  | .moveMemReg _ b | .moveRegReg _ b | .moveImmReg _ b => some b
  | .incReg a | .ldi a _ => some a
  | .addRegMem _ _ | .addImmMem _ _ | .subRegMem _ _ | .subImmMem _ _ | .moveRegMem _ _ | .incMem _ => none
  | .reserved8 | .reserved9 | .reserved10 => none
  | .jmp _ | .jn _ | .jz _ | .jnz _ | .jeq _ _ _ | .jgt _ _ _ | .jlw _ _ _ => none

/-- The address of the memory cell an instruction writes (20_memory R63). -/
def memoryDestination : Instr → Option Int
  | .addRegMem _ m | .addImmMem _ m | .subRegMem _ m | .subImmMem _ m | .moveRegMem _ m | .incMem m => some m
  | .addRegReg _ _ | .addMemReg _ _ | .subRegReg _ _ | .subMemReg _ _ => none
  | .moveMemReg _ _ | .moveRegReg _ _ | .moveImmReg _ _ | .incReg _ | .ldi _ _ => none
  | .reserved8 | .reserved9 | .reserved10 => none
  | .jmp _ | .jn _ | .jz _ | .jnz _ | .jeq _ _ _ | .jgt _ _ _ | .jlw _ _ _ => none

/-- The target of a jump (44_jumps R200). -/
def jumpTarget : Instr → Option Int
  | .jmp t | .jn t | .jz t | .jnz t | .jeq _ _ t | .jgt _ _ t | .jlw _ _ t => some t
  | .addRegReg _ _ | .addMemReg _ _ | .addRegMem _ _ | .addImmMem _ _ => none
  | .subRegReg _ _ | .subMemReg _ _ | .subRegMem _ _ | .subImmMem _ _ => none
  | .moveMemReg _ _ | .moveRegMem _ _ | .moveRegReg _ _ | .moveImmReg _ _ => none
  | .incReg _ | .incMem _ | .ldi _ _ => none
  | .reserved8 | .reserved9 | .reserved10 => none

/-- The ten arithmetic instructions, which recompute the flags (10_state R28). -/
def isArithmetic : Instr → Bool
  | .addRegReg _ _ | .addMemReg _ _ | .addRegMem _ _ | .addImmMem _ _ => true
  | .subRegReg _ _ | .subMemReg _ _ | .subRegMem _ _ | .subImmMem _ _ => true
  | .incReg _ | .incMem _ => true
  | .moveMemReg _ _ | .moveRegMem _ _ | .moveRegReg _ _ | .moveImmReg _ _ | .ldi _ _ => false
  | .reserved8 | .reserved9 | .reserved10 => false
  | .jmp _ | .jn _ | .jz _ | .jnz _ | .jeq _ _ _ | .jgt _ _ _ | .jlw _ _ _ => false

end Sys2Proof.Machine
end

