-- ==== Sys2Proof/Certificates/Slice0/Obligations.lean ====
section
/-! DEFINITION. The statements. "Log n" is notes/assumptions/n.md; "decision Dn" is a row of
spec/92_eei_decisions.md, a choice of the spec's own. Every statement about a state holds for a machine
with any parameters of 00_scope R7 (`s.params`), valid ones where it has the premise `Invariant s`.
`Completes` and `CompletesStoring` (Safety.lean) say that `exec` answers a next state and give the whole
architectural state of it, so each of them states the instruction's frame. -/

open Sys2Proof Sys2Proof.Machine Sys2Proof.Config

/-! ### Reset, terminal states, the step -/

/-- 10_state R41, 70_reset_and_hazards R300: what reset leaves, for any parameters. The zeros of the
registers and flags are the spec's decision D15 (log 6); that no cell is listed, so that each reads 0 before
a launch gives memory its contents, is the model's choice (log 5), and so are the parameters of
`State.reset`, the spec's own values (log 3). -/
def Obligations.ResetLeavesTheStatedValues : Prop :=
  State.reset = State.resetWith .reference ∧ ∀ P : Params,
    (State.resetWith P).pc = 0 ∧ (State.resetWith P).gpr.length = P.numGpr ∧
    (∀ i, i < P.numGpr → (State.resetWith P).gpr[i]? = some 0) ∧ (State.resetWith P).ir = 0 ∧
    (State.resetWith P).flags = 0 ∧ (State.resetWith P).status = .running ∧
    (State.resetWith P).phase = .idle ∧ (State.resetWith P).mem = [] ∧ (State.resetWith P).params = P

/-- The invariant of `StepKeepsTheInvariant` holds after reset, for all valid parameters. The reset values the
model chose (logs 5, 7) enter only in that they are words of the machine and the selector one of its
registers. -/
def Obligations.InvariantHoldsAtReset : Prop :=
  Invariant State.reset ∧ ∀ P : Params, P.valid = true → Invariant (State.resetWith P)

/-- A running machine whose cells at `pc` decode to an instruction runs that instruction: the step is
`exec` of it at that very state (`exec` itself moves `pc`). The cells are the four from `pc` on; log 19. -/
def Obligations.StepRunsTheDecodedInstruction : Prop :=
  ∀ (s : State) (i : Instr) (rest : List Int), s.status = .running → inRange s.params s.pc = true →
    decode s.streamCells = .ok (i, rest) → step s = exec i s

/-- 60_exceptions R270, R282 and 93 part 2: a machine that is HALTED or in FAULT does nothing. That the
step then answers the same state is the model's choice (log 15). -/
def Obligations.TerminalStatesDoNothing : Prop :=
  ∀ s : State, s.terminal → step s = .next s

/-- A few words of the opcode table, written out as numbers: 30_encoding R91, R94, R95, R96. -/
def Obligations.EncodedWordsDecode : Prop :=
  decode [0, 0, 1] = .ok (.addRegReg 0 1, []) ∧ decode [6, 0, 126] = .ok (.subRegMem 0 126, []) ∧
    decode [12, 0, 127, 8] = .ok (.moveRegMem 0 127, [8]) ∧ decode [15, 3] = .ok (.incReg 3, []) ∧
    decode [18, 30] = .ok (.jn 30, []) ∧ decode [22, 1, 2, 22] = .ok (.jgt 1 2 22, []) ∧
    decode [24, 0, 5] = .ok (.ldi 0 5, []) ∧ decode [9] = .ok (.reserved9, []) ∧
    decode [280, 0, 5] = .error (.unmatched 280) ∧ decode [-1] = .error (.unmatched (-1))

/-! ### Encoding -/

/-- Decoding and encoding agree in both directions, for every instruction with every operand word: no
bit of a cell is dropped, and a list of cells decodes to an instruction only if it starts with that
instruction's cells (30_encoding R91, R93, R96). -/
def Obligations.DecodeAndEncodeAgree : Prop :=
  ∀ (cells rest : List Int) (i : Instr), decode cells = .ok (i, rest) ↔ cells = encode i ++ rest

/-- 30_encoding R96: the whole opcode word is matched. Each of the words 0 to 7 and 11 to 24 selects its own
microprogram, which is what `exec` runs; 8, 9, 10, every word above 24 and every negative word select none,
and a running machine halts exactly where none is selected. -/
def Obligations.OpcodeWordsMatchExactly : Prop :=
  (∀ P : Params, ([0, 1, 2, 3, 4, 5, 6, 7, 8, 9, 10, 11, 12, 13, 14, 15, 16, 17, 18, 19, 20, 21, 22, 23,
      24].map (microprogram P)) =
    [some (addRegRegProgram P), some (addMemRegProgram P), some (addRegMemProgram P),
      some (addImmMemProgram P), some subRegRegProgram, some subMemRegProgram, some subRegMemProgram,
      some subImmMemProgram, none, none, none, some moveMemRegProgram, some moveRegMemProgram,
      some moveRegRegProgram, some moveImmRegProgram, some incRegProgram, some incMemProgram,
      some jmpProgram, some jnProgram, some jzProgram, some jnzProgram, some jeqProgram, some jgtProgram,
      some jlwProgram, some ldiProgram]) ∧
    (∀ (P : Params) (v : Int), v < 0 ∨ 24 < v → microprogram P v = none) ∧
    (∀ (s : State) (i : Instr) (p : CellReader → Microprogram),
      microprogram s.params i.opcode = some p → s.leavesOpen i = false →
        exec i s = finishStep (instructionStep (givenCells (encode i)) p s)) ∧
    ∀ s : State, s.status = .running → inRange s.params s.pc = true →
      (microprogram s.params (readCell s.mem s.pc.toNat) = none ↔
        ∃ t, step s = .next t ∧ t.status = .halted)

/-! ### Transactions -/

/-- 40_micro_operations R120: a bus holds the last word put on it, a get does not clear it, and a put
changes no other bus. -/
def Obligations.BusHoldsTheLastWordPut : Prop :=
  ∀ (s : State) (b : Bus) (v : Int), (s.busPut b v).busGet b = v ∧
    (∀ b', b' ≠ b → (s.busPut b v).busGet b' = s.busGet b') ∧ (s.busPut b v).arch = s.arch

/-- 40_micro_operations R122: the four transfers between the ALU's slots and the internal buses. -/
def Obligations.AluOperandTransfers : Prop :=
  ∀ (s : State) (i : Slot),
    (Transaction.aluStore i).apply s = .ok (s.setSlot i s.intbus1) ∧
      (Transaction.aluInternalStore i).apply s = .ok (s.setSlot i s.intbus2) ∧
      (Transaction.aluRead i).apply s = .ok { s with intbus1 := s.getSlot i } ∧
      (Transaction.aluInternalRead i).apply s = .ok { s with intbus2 := s.getSlot i }

/-- 40_micro_operations R123: the three ALU commands. The results are mathematical, wrapped to a word. -/
def Obligations.AluCommandsWriteSlotOne : Prop :=
  ∀ s : State,
    (Transaction.aluCommand .inc).apply s = .ok { s with slot1 := s.toWord (s.slot1 + 1), aluop := .inc } ∧
      (Transaction.aluCommand .add).apply s =
        .ok { s with slot1 := s.toWord (s.slot0 + s.slot1), aluop := .add } ∧
      (Transaction.aluCommand .sub).apply s =
        .ok { s with slot1 := s.toWord (s.slot0 - s.slot1), aluop := .sub }

/-- 40_micro_operations R124: flags change only by `cu.deriveFlags` or by a store into the Flags
register; in particular no ALU command changes them. -/
def Obligations.OnlyDerivationAndStoresChangeFlags : Prop :=
  ∀ (t : Transaction) (s s' : State), t.apply s = .ok s' → s'.flags ≠ s.flags →
    (∃ b, t = .deriveFlags b) ∨ t = .regStore .flags ∨ t = .regInternalStore .flags ∨
      (s.sel = .flags ∧ (t = .rfStore ∨ t = .rfInternalStore))

/-- `mem.read()`, 40_micro_operations section 4; that it leaves the store latch alone is decision D12
(log 17). -/
def Obligations.MemoryReadTransaction : Prop :=
  ∀ s : State,
    (0 ≤ s.extbus ∧ s.extbus < s.params.memSize →
      Transaction.memRead.apply s = .ok { s with extbus := readCell s.mem s.extbus.toNat }) ∧
    (s.extbus < 0 ∨ s.params.memSize ≤ s.extbus →
      Transaction.memRead.apply s = .error (.addressOutOfRange s.extbus, s))

/-- The two-phase `mem.store()`, 40_micro_operations section 4, decision D12 (log 17): an address is
latched, and the word on the bus at the second call is what the latched cell then reads as. -/
def Obligations.MemoryStoreHasTwoPhases : Prop :=
  ∀ (s : State) (v : Int), Invariant s →
    (inRange s.params s.extbus = true →
      ∃ s₁ s₂, Transaction.memStore.apply s = .ok s₁ ∧ s₁.mem = s.mem ∧ s₁.phase = .latched ∧
        Transaction.memStore.apply { s₁ with extbus := v } = .ok s₂ ∧ s₂.phase = .idle ∧ s₂.extbus = v ∧
        readCell s₂.mem s.extbus.toNat = v ∧
        ∀ b, b ≠ s.extbus.toNat → readCell s₂.mem b = readCell s.mem b) ∧
    (inRange s.params s.extbus = false →
      Transaction.memStore.apply s = .error (.addressOutOfRange s.extbus, s))

/-- `sel.load()`, 40_micro_operations section 5, decision D13 (log 14): ids 0 to NREG-1 name the
general-purpose registers, PC, IR and Flags in this order (10_state R30); any other word is fatal. -/
def Obligations.SelectorLoadTakesTheId : Prop :=
  ∀ s : State,
    (∀ i, i < s.params.numGpr → s.extbus = i → Transaction.selLoad.apply s = .ok { s with sel := .gpr i }) ∧
    (s.extbus = s.params.idPc → Transaction.selLoad.apply s = .ok { s with sel := .pc }) ∧
    (s.extbus = s.params.idIr → Transaction.selLoad.apply s = .ok { s with sel := .ir }) ∧
    (s.extbus = s.params.idFlags → Transaction.selLoad.apply s = .ok { s with sel := .flags }) ∧
    (s.extbus < 0 ∨ s.params.numReg ≤ s.extbus →
      Transaction.selLoad.apply s = .error (.registerIdOutOfRange s.extbus, s))

/-- `PCADV`, 40_micro_operations section 7 (the five transactions by name are derived by the spec):
the program counter advances by one cell, `intbus2` and `slot[1]` hold the new one, and nothing else
changes but the ALU's pending operation. -/
def Obligations.ProgramCounterAdvance : Prop :=
  ∀ s : State, pcadv.length = 5 ∧ runTransactions pcadv s =
    .ok { s with
      pc := s.toWord (s.pc + 1)
      intbus2 := s.toWord (s.pc + 1)
      slot1 := s.toWord (s.pc + 1)
      aluop := .inc }

/-- 40_micro_operations R134: Fetch, "PC value → external bus → memory read → IR store". The three
transactions are those the model's own Fetch and Decode (`fetchDecode`) begins with. -/
def Obligations.FetchReadsTheCellAtPc : Prop :=
  fetchDecode .memRead = [.regRead .pc, .memRead, .regStore .ir] ++ [.regInternalRead .ir] ∧
  ∀ s : State,
    (inRange s.params s.pc = true →
      runTransactions [.regRead .pc, .memRead, .regStore .ir] s =
        .ok { s with extbus := readCell s.mem s.pc.toNat, ir := readCell s.mem s.pc.toNat }) ∧
    (inRange s.params s.pc = false →
      ∃ s', runTransactions [.regRead .pc, .memRead, .regStore .ir] s =
        .error (.addressOutOfRange s.pc, s') ∧ s'.ir = s.ir ∧ s'.arch = s.arch)

/-- 10_state section 5 (bit positions: decision D4, log 18): after `SetFlags(r)` ZERO is set iff
`r = 0`, NEGATIVE iff `r < 0`, NONZERO iff `r ≠ 0`, and the register holds one of three values; at the
spec's positions they are 0b001, 0b100 and 0b110. -/
def Obligations.FlagsOfAResult : Prop :=
  (∀ (P : Params) (r : Int), P.valid = true →
    (zeroFlag P (flagsOf P r) = true ↔ r = 0) ∧ (negativeFlag P (flagsOf P r) = true ↔ r < 0) ∧
      (nonzeroFlag P (flagsOf P r) = true ↔ r ≠ 0) ∧
      (flagsOf P r = 1#3 <<< P.flagZ.val ∨ flagsOf P r = 1#3 <<< P.flagNZ.val ∨
        flagsOf P r = (1#3 <<< P.flagN.val ||| 1#3 <<< P.flagNZ.val))) ∧
    flagsOf .reference 0 = 0b001#3 ∧ (∀ r : Int, 0 < r → flagsOf .reference r = 0b100#3) ∧
    ∀ r : Int, r < 0 → flagsOf .reference r = 0b110#3

/-- 47_microprograms section 9, 20_memory section 1 (the counts are the spec's derivation, with
`ADD_UPDATES_FLAGS` at its value true): for each opcode number from 0 on, the transactions, the memory reads
and the `mem.store()` calls (two to a write) of a step of its reference microprogram, not taken where it is
conditional (8, 9 and 10 have none); then the same for the conditional jumps 18 to 23 when they are taken,
and for a step that halts. -/
def Obligations.TransactionAndMemoryCounts : Prop :=
  (∀ P : Params, P.addUpdatesFlags = true →
    ([0, 1, 2, 3, 4, 5, 6, 7, 8, 9, 10, 11, 12, 13, 14, 15, 16, 17, 18, 19, 20, 21, 22, 23, 24].map fun op =>
      (microprogram P op).map fun p => ((stepTransactions p false).length,
        memoryReads (stepTransactions p false), storeCalls (stepTransactions p false))) =
    [some (33, 3, 0), some (34, 4, 0), some (37, 4, 2), some (37, 4, 2), some (35, 3, 0), some (36, 4, 0),
      some (39, 4, 2), some (39, 4, 2), none, none, none, some (28, 4, 0), some (27, 3, 2), some (29, 3, 0),
      some (27, 3, 0), some (23, 2, 0), some (27, 3, 2), some (12, 2, 0), some (16, 2, 0), some (16, 2, 0),
      some (16, 2, 0), some (38, 4, 0), some (38, 4, 0), some (38, 4, 0), some (25, 3, 0)]) ∧
  ([jnProgram, jzProgram, jnzProgram, jeqProgram, jgtProgram, jlwProgram].map fun p =>
    ((stepTransactions p true).length, memoryReads (stepTransactions p true),
      storeCalls (stepTransactions p true))) =
    [(12, 2, 0), (12, 2, 0), (12, 2, 0), (34, 4, 0), (34, 4, 0), (34, 4, 0)] ∧
  (fetchDecode .memRead).length = 4 ∧ memoryReads (fetchDecode .memRead) = 1 ∧
  storeCalls (fetchDecode .memRead) = 0

/-! ### The result of each instruction, with its frame -/

/-- `addRegReg` and `subRegReg` (41_add_sub): destination plus or minus source, the second operand the
destination (decision D8, log 12), flags of the result (for `add` by `ADD_UPDATES_FLAGS`, decision D7,
log 11). -/
def Obligations.AddSubBetweenRegisters : Prop :=
  ∀ (s : State) (i j : Nat), Invariant s → s.fits 3 → i < s.params.numGpr → j < s.params.numGpr →
    Completes (.addRegReg i j) s
      { s.arch with
        gpr := s.gpr.set j (s.toWord (s.gpr.getD j 0 + s.gpr.getD i 0))
        flags := if s.params.addUpdatesFlags then
          flagsOf s.params (s.toWord (s.gpr.getD j 0 + s.gpr.getD i 0)) else s.flags
        pc := s.toWord (s.pc + 3) } ∧
    Completes (.subRegReg i j) s
      { s.arch with
        gpr := s.gpr.set j (s.toWord (s.gpr.getD j 0 - s.gpr.getD i 0))
        flags := flagsOf s.params (s.toWord (s.gpr.getD j 0 - s.gpr.getD i 0))
        pc := s.toWord (s.pc + 3) }

/-- `addMemReg` and `subMemReg` (41_add_sub): the value at the address is used, not the address
(decisions D7, D8; logs 11, 12). -/
def Obligations.AddSubMemoryIntoRegister : Prop :=
  ∀ (s : State) (m : Int) (j : Nat), Invariant s → s.fits 3 → inRange s.params m = true →
    j < s.params.numGpr →
    Completes (.addMemReg m j) s
      { s.arch with
        gpr := s.gpr.set j (s.toWord (s.gpr.getD j 0 + readCell s.mem m.toNat))
        flags := if s.params.addUpdatesFlags then
          flagsOf s.params (s.toWord (s.gpr.getD j 0 + readCell s.mem m.toNat)) else s.flags
        pc := s.toWord (s.pc + 3) } ∧
    Completes (.subMemReg m j) s
      { s.arch with
        gpr := s.gpr.set j (s.toWord (s.gpr.getD j 0 - readCell s.mem m.toNat))
        flags := flagsOf s.params (s.toWord (s.gpr.getD j 0 - readCell s.mem m.toNat))
        pc := s.toWord (s.pc + 3) }

/-- `addRegMem` and `subRegMem` (41_add_sub): the cell `m` alone is written (decisions D7, D8; logs 11,
12). -/
def Obligations.AddSubRegisterIntoMemory : Prop :=
  ∀ (s : State) (i : Nat) (m : Int), Invariant s → s.fits 3 → i < s.params.numGpr →
    inRange s.params m = true →
    CompletesStoring (.addRegMem i m) s m (s.toWord (readCell s.mem m.toNat + s.gpr.getD i 0))
      { s.arch with
        flags := if s.params.addUpdatesFlags then
          flagsOf s.params (s.toWord (readCell s.mem m.toNat + s.gpr.getD i 0)) else s.flags
        pc := s.toWord (s.pc + 3) } ∧
    CompletesStoring (.subRegMem i m) s m (s.toWord (readCell s.mem m.toNat - s.gpr.getD i 0))
      { s.arch with
        flags := flagsOf s.params (s.toWord (readCell s.mem m.toNat - s.gpr.getD i 0))
        pc := s.toWord (s.pc + 3) }

/-- `addImmMem` and `subImmMem` (41_add_sub): no register is read or written (decisions D7, D8; logs 11,
12). -/
def Obligations.AddSubImmediateIntoMemory : Prop :=
  ∀ (s : State) (i m : Int), Invariant s → s.fits 3 → inRange s.params m = true →
    CompletesStoring (.addImmMem i m) s m (s.toWord (readCell s.mem m.toNat + i))
      { s.arch with
        flags := if s.params.addUpdatesFlags then
          flagsOf s.params (s.toWord (readCell s.mem m.toNat + i)) else s.flags
        pc := s.toWord (s.pc + 3) } ∧
    CompletesStoring (.subImmMem i m) s m (s.toWord (readCell s.mem m.toNat - i))
      { s.arch with
        flags := flagsOf s.params (s.toWord (readCell s.mem m.toNat - i))
        pc := s.toWord (s.pc + 3) }

/-- `moveMemReg`, `moveRegReg`, `moveImmReg` and `ldi` (42_move, 46_ldi): one word is copied into a
general-purpose register; flags and memory are unchanged (decisions D8, D11; logs 12, 16). -/
def Obligations.MovesIntoRegisters : Prop :=
  ∀ (s : State) (i j : Nat) (m v : Int), Invariant s → s.fits 3 → i < s.params.numGpr →
    j < s.params.numGpr →
    (inRange s.params m = true → Completes (.moveMemReg m j) s
      { s.arch with gpr := s.gpr.set j (readCell s.mem m.toNat), pc := s.toWord (s.pc + 3) }) ∧
    Completes (.moveRegReg i j) s
      { s.arch with gpr := s.gpr.set j (s.gpr.getD i 0), pc := s.toWord (s.pc + 3) } ∧
    Completes (.moveImmReg v j) s { s.arch with gpr := s.gpr.set j v, pc := s.toWord (s.pc + 3) } ∧
    Completes (.ldi j v) s { s.arch with gpr := s.gpr.set j v, pc := s.toWord (s.pc + 3) }

/-- `moveRegMem` (42_move): the register's word is stored in cell `m`. -/
def Obligations.MoveRegisterIntoMemory : Prop :=
  ∀ (s : State) (i : Nat) (m : Int), Invariant s → s.fits 3 → i < s.params.numGpr →
    inRange s.params m = true →
    CompletesStoring (.moveRegMem i m) s m (s.gpr.getD i 0) { s.arch with pc := s.toWord (s.pc + 3) }

/-- `incReg` (43_inc). -/
def Obligations.IncrementRegister : Prop :=
  ∀ (s : State) (i : Nat), Invariant s → s.fits 2 → i < s.params.numGpr →
    Completes (.incReg i) s
      { s.arch with
        gpr := s.gpr.set i (s.toWord (s.gpr.getD i 0 + 1))
        flags := flagsOf s.params (s.toWord (s.gpr.getD i 0 + 1))
        pc := s.toWord (s.pc + 2) }

/-- `incMem` (43_inc). -/
def Obligations.IncrementMemory : Prop :=
  ∀ (s : State) (m : Int), Invariant s → s.fits 2 → inRange s.params m = true →
    CompletesStoring (.incMem m) s m (s.toWord (readCell s.mem m.toNat + 1))
      { s.arch with
        flags := flagsOf s.params (s.toWord (readCell s.mem m.toNat + 1))
        pc := s.toWord (s.pc + 2) }

/-- `jmp`, `jn`, `jz`, `jnz` (44_jumps): the target is loaded unchecked; a jump not taken falls through
to the next instruction; nothing else changes (decisions D11, D19, log 16). -/
def Obligations.JumpsOnFlags : Prop :=
  ∀ (s : State) (t : Int), Invariant s → s.fits 2 →
    Completes (.jmp t) s { s.arch with pc := t } ∧
    Completes (.jn t) s
      { s.arch with pc := if negativeFlag s.params s.flags then t else s.toWord (s.pc + 2) } ∧
    Completes (.jz t) s
      { s.arch with pc := if zeroFlag s.params s.flags then t else s.toWord (s.pc + 2) } ∧
    Completes (.jnz t) s
      { s.arch with pc := if nonzeroFlag s.params s.flags then t else s.toWord (s.pc + 2) }

/-- `jeq` (45_compare_jumps): exact for all words, overflow or not, whatever the setting of
`CMP_OVERFLOW`; flags unchanged (decision D10, log 16). -/
def Obligations.JumpIfEqual : Prop :=
  ∀ (s : State) (i j : Nat) (t : Int), Invariant s → s.fits 4 → i < s.params.numGpr →
    j < s.params.numGpr →
    Completes (.jeq i j t) s
      { s.arch with pc := if s.gpr.getD i 0 = s.gpr.getD j 0 then t else s.toWord (s.pc + 4) }

/-- `jgt` and `jlw` (45_compare_jumps) under the spec's reference setting of the open parameter
`CMP_OVERFLOW` (decision D9, log 13): the decision is the sign of the wrapped difference. -/
def Obligations.JumpOnWrappedDifference : Prop :=
  ∀ (s : State) (i j : Nat) (t : Int), Invariant s → s.fits 4 → i < s.params.numGpr →
    j < s.params.numGpr → s.params.cmpOverflow = .signOfWrappedDifference →
    Completes (.jgt i j t) s
      { s.arch with
        pc := if 0 < s.toWord (s.gpr.getD i 0 - s.gpr.getD j 0) then t else s.toWord (s.pc + 4) } ∧
    Completes (.jlw i j t) s
      { s.arch with
        pc := if s.toWord (s.gpr.getD i 0 - s.gpr.getD j 0) < 0 then t else s.toWord (s.pc + 4) }

/-- `jgt` and `jlw` where the true difference fits a word (45_compare_jumps, F5): the signed order of
the operands decides, whatever the setting of `CMP_OVERFLOW`. -/
def Obligations.JumpOnSignedOrderWithoutOverflow : Prop :=
  ∀ (s : State) (i j : Nat) (t : Int), Invariant s → s.fits 4 → i < s.params.numGpr →
    j < s.params.numGpr → -2 ^ (s.params.xlen - 1) ≤ s.gpr.getD i 0 - s.gpr.getD j 0 →
    s.gpr.getD i 0 - s.gpr.getD j 0 < 2 ^ (s.params.xlen - 1) →
    Completes (.jgt i j t) s
      { s.arch with pc := if s.gpr.getD j 0 < s.gpr.getD i 0 then t else s.toWord (s.pc + 4) } ∧
    Completes (.jlw i j t) s
      { s.arch with pc := if s.gpr.getD i 0 < s.gpr.getD j 0 then t else s.toWord (s.pc + 4) }

/-- The reserved opcodes 8, 9 and 10, and every cell that matches no opcode (60_exceptions section 1):
the machine halts with `pc` at the cell (decision D20, log 15) and the word in `ir`; `extbus` and
`intbus2` hold it too. -/
def Obligations.ReservedAndUnmatchedWordsHalt : Prop :=
  ∀ s : State, s.fits 1 →
    (∀ i ∈ [Instr.reserved8, Instr.reserved9, Instr.reserved10],
      ∃ t, exec i s = .next t ∧ t.arch = { s.arch with status := .halted } ∧ t.ir = i.opcode ∧
        t.extbus = i.opcode ∧ t.intbus2 = i.opcode ∧ t.phase = s.phase) ∧
    (s.status = .running → readCell s.mem s.pc.toNat < 0 ∨ 24 < readCell s.mem s.pc.toNat →
      ∃ t, step s = .next t ∧ t.arch = { s.arch with status := .halted } ∧
        t.ir = readCell s.mem s.pc.toNat ∧ t.extbus = readCell s.mem s.pc.toNat ∧
        t.intbus2 = readCell s.mem s.pc.toNat ∧ t.phase = s.phase)

/-- A move or `ldi` that names PC, IR or Flags: the table of 70_reset_and_hazards section 3 (R314's
table), row by row. What is read from PC and IR is decision D18 of the spec (log 10). -/
def Obligations.MovesNamingPcIrFlags : Prop :=
  ∀ (s : State) (j : Nat) (m v : Int), Invariant s → s.fits 3 → j < s.params.numGpr →
    inRange s.params m = true →
    let pcId := s.params.idPc
    let irId := s.params.idIr
    let flagsId := s.params.idFlags
    let next := s.toWord (s.pc + 3)
    Completes (.ldi pcId v) s { s.arch with pc := s.toWord (v + 1) } ∧
    Completes (.moveImmReg v pcId) s { s.arch with pc := s.toWord (v + 1) } ∧
    Completes (.moveMemReg m pcId) s { s.arch with pc := s.toWord (readCell s.mem m.toNat + 1) } ∧
    Completes (.moveRegReg j pcId) s { s.arch with pc := s.toWord (s.gpr.getD j 0 + 1) } ∧
    Completes (.ldi flagsId v) s { s.arch with flags := BitVec.ofInt 3 v, pc := next } ∧
    Completes (.moveImmReg v flagsId) s { s.arch with flags := BitVec.ofInt 3 v, pc := next } ∧
    Completes (.moveMemReg m flagsId) s
      { s.arch with flags := BitVec.ofInt 3 (readCell s.mem m.toNat), pc := next } ∧
    Completes (.moveRegReg j flagsId) s
      { s.arch with flags := BitVec.ofInt 3 (s.gpr.getD j 0), pc := next } ∧
    Completes (.ldi irId v) s { s.arch with pc := next } ∧
    Completes (.moveImmReg v irId) s { s.arch with pc := next } ∧
    Completes (.moveMemReg m irId) s { s.arch with pc := next } ∧
    Completes (.moveRegReg j irId) s { s.arch with pc := next } ∧
    Completes (.moveRegReg pcId j) s
      { s.arch with gpr := s.gpr.set j (s.toWord (s.pc + 1)), pc := next } ∧
    CompletesStoring (.moveRegMem pcId m) s m (s.toWord (s.pc + 2)) { s.arch with pc := next } ∧
    Completes (.moveRegReg pcId pcId) s { s.arch with pc := s.toWord (s.pc + 2) } ∧
    Completes (.moveRegReg irId j) s { s.arch with gpr := s.gpr.set j 13, pc := next } ∧
    CompletesStoring (.moveRegMem irId m) s m 12 { s.arch with pc := next } ∧
    Completes (.moveRegReg flagsId j) s { s.arch with gpr := s.gpr.set j s.flags.toNat, pc := next } ∧
    CompletesStoring (.moveRegMem flagsId m) s m s.flags.toNat { s.arch with pc := next }

/-- An ALU instruction with a register destination and a `Reg` operand that names PC, IR or Flags
(70_reset_and_hazards section 3, decision D6, log 9): it completes without an event whatever its open
result is; memory, every general-purpose register but the destination, and `pc`'s advance where PC is not
the destination are as the instruction's rule says. -/
def Obligations.OpenRegisterResultFrame : Prop :=
  ∀ (s : State) (i : Instr) (d : Int), Invariant s → s.fits i.length → i.wf s.params = true →
    isArithmetic i = true → registerDestination i = some d → s.namesSpecialOperand i = true →
    ∃ t, exec i s = .next t ∧ t.params = s.params ∧ t.status = s.status ∧ t.mem = s.mem ∧
      t.phase = s.phase ∧ t.gpr.length = s.gpr.length ∧
      (∀ k, regOfId s.params d ≠ some (.gpr k) → t.gpr[k]? = s.gpr[k]?) ∧
      (regOfId s.params d ≠ some .pc → t.pc = s.toWord (s.pc + i.length))

/-- The same for a memory destination and for the compare jumps, and for `jgt` and `jlw` on overflow under
the setting `openBranch` of `CMP_OVERFLOW` (45_compare_jumps section 1, decision D9, log 13): no register
changes, only the destination cell may, `pc` advances (or, for a jump, one of the two branches is taken). -/
def Obligations.OpenMemoryResultAndOpenBranchFrame : Prop :=
  ∀ (s : State) (i : Instr), Invariant s → s.fits i.length → i.wf s.params = true →
    s.leavesOpen i = true →
    (∀ d, memoryDestination i = some d →
      ∃ t, exec i s = .next t ∧ t.params = s.params ∧ t.status = s.status ∧ t.gpr = s.gpr ∧
        t.phase = s.phase ∧ t.pc = s.toWord (s.pc + 3) ∧
        ∀ a, a ≠ d.toNat → readCell t.mem a = readCell s.mem a) ∧
    (∀ d, jumpTarget i = some d →
      ∃ t, exec i s = .next t ∧ t.params = s.params ∧ t.status = s.status ∧ t.gpr = s.gpr ∧
        t.phase = s.phase ∧ t.mem = s.mem ∧ t.flags = s.flags ∧ (t.pc = d ∨ t.pc = s.toWord (s.pc + 4)))

/-! ### Each family follows its rules: results, events and their order -/

/-- 41_add_sub, opcodes 0 to 3, with operands that name no register but general-purpose ones: the
pseudocode of the rules, events in its order included (decisions D1, D7, D8, D13; logs 1, 11, 12, 14).
After an event `pc` is at the cell being processed (60_exceptions section 3, decision D23, log 15). -/
def Obligations.AddFollowsItsRules : Prop :=
  ∀ (s : State) (a b m v : Int), Invariant s → inRange s.params s.pc = true →
    namesSpecial s.params a = false → namesSpecial s.params b = false →
    (s.holds (.addRegReg a b) → Completes (.addRegReg a b) s (s.arch.settle s.arch.addRegReg)) ∧
    (s.holds (.addMemReg m b) → Completes (.addMemReg m b) s (s.arch.settle s.arch.addMemReg)) ∧
    (s.holds (.addRegMem a m) → Completes (.addRegMem a m) s (s.arch.settle s.arch.addRegMem)) ∧
    (s.holds (.addImmMem v m) → Completes (.addImmMem v m) s (s.arch.settle s.arch.addImmMem))

/-- 41_add_sub, opcodes 4 to 7, with operands that name no register but general-purpose ones (decisions
D1, D8, D13; logs 1, 12, 14). After an event `pc` is at the cell being processed (60_exceptions section 3,
decision D23, log 15). -/
def Obligations.SubFollowsItsRules : Prop :=
  ∀ (s : State) (a b m v : Int), Invariant s → inRange s.params s.pc = true →
    namesSpecial s.params a = false → namesSpecial s.params b = false →
    (s.holds (.subRegReg a b) → Completes (.subRegReg a b) s (s.arch.settle s.arch.subRegReg)) ∧
    (s.holds (.subMemReg m b) → Completes (.subMemReg m b) s (s.arch.settle s.arch.subMemReg)) ∧
    (s.holds (.subRegMem a m) → Completes (.subRegMem a m) s (s.arch.settle s.arch.subRegMem)) ∧
    (s.holds (.subImmMem v m) → Completes (.subImmMem v m) s (s.arch.settle s.arch.subImmMem))

/-- 42_move, opcodes 11 to 14, for operands that name no register but general-purpose ones: the encodings,
the pseudocode, the events in its order, and the memory traffic (decision D13, log 14). After an event `pc`
is at the cell being processed (60_exceptions section 3, decision D23, log 15). -/
def Obligations.MoveFollowsItsRules : Prop :=
  (∀ a b m v : Int, encode (.moveMemReg m b) = [11, m, b] ∧ encode (.moveRegMem a m) = [12, a, m] ∧
    encode (.moveRegReg a b) = [13, a, b] ∧ encode (.moveImmReg v b) = [14, v, b]) ∧
  (∀ (s : State) (a b m v : Int), Invariant s → inRange s.params s.pc = true →
    namesSpecial s.params a = false → namesSpecial s.params b = false →
    (s.holds (.moveMemReg m b) → Completes (.moveMemReg m b) s (s.arch.settle s.arch.moveMemReg)) ∧
    (s.holds (.moveRegMem a m) → Completes (.moveRegMem a m) s (s.arch.settle s.arch.moveRegMem)) ∧
    (s.holds (.moveRegReg a b) → Completes (.moveRegReg a b) s (s.arch.settle s.arch.moveRegReg)) ∧
    (s.holds (.moveImmReg v b) → Completes (.moveImmReg v b) s (s.arch.settle s.arch.moveImmReg))) ∧
  memoryReads (stepTransactions moveMemRegProgram false) = 4 ∧
  storeCalls (stepTransactions moveMemRegProgram false) = 0 ∧
  memoryReads (stepTransactions moveRegMemProgram false) = 3 ∧
  storeCalls (stepTransactions moveRegMemProgram false) = 2

/-- 43_inc, opcodes 15 and 16, for a general-purpose operand: the encodings, the pseudocode, the events in
its order, and the memory traffic (decision D13, log 14). After an event `pc` is at the cell being
processed (60_exceptions section 3, decision D23, log 15). -/
def Obligations.IncFollowsItsRules : Prop :=
  (∀ v : Int, encode (.incReg v) = [15, v] ∧ encode (.incMem v) = [16, v]) ∧
  (∀ (s : State) (a m : Int), Invariant s → inRange s.params s.pc = true → namesSpecial s.params a = false →
    (s.holds (.incReg a) → Completes (.incReg a) s (s.arch.settle s.arch.incReg)) ∧
    (s.holds (.incMem m) → Completes (.incMem m) s (s.arch.settle s.arch.incMem))) ∧
  memoryReads (stepTransactions incMemProgram false) = 3 ∧
  storeCalls (stepTransactions incMemProgram false) = 2

/-- 44_jumps, opcode 17: `jmp`, its encoding, its event, and the fault of the next Fetch where the target
is no address. After an event `pc` is at the cell being processed (60_exceptions section 3, decision D23,
log 15). -/
def Obligations.JmpFollowsItsRule : Prop :=
  ∀ (s : State) (t : Int), Invariant s → inRange s.params s.pc = true → s.holds (.jmp t) →
    encode (.jmp t) = [17, t] ∧
    Completes (.jmp t) s (s.arch.settle s.arch.jmp) ∧
    (inRange s.params t = false → s.status = .running → inRange s.params (s.pc + 1) = true →
      ∃ u v, exec (.jmp t) s = .next u ∧ u.pc = t ∧ step u = .next v ∧
        v.arch = { u.arch with status := .fault (.addressOutOfRange t) })

/-- 44_jumps, opcodes 18 to 20 (the target cell is read whether or not the jump is taken: decision D19,
log 16). After an event `pc` is at the cell being processed (60_exceptions section 3, decision D23,
log 15). -/
def Obligations.ConditionalJumpsFollowTheirRules : Prop :=
  ∀ (s : State) (t : Int), Invariant s → inRange s.params s.pc = true →
    (s.holds (.jn t) → Completes (.jn t) s (s.arch.settle s.arch.jn)) ∧
    (s.holds (.jz t) → Completes (.jz t) s (s.arch.settle s.arch.jz)) ∧
    (s.holds (.jnz t) → Completes (.jnz t) s (s.arch.settle s.arch.jnz))

/-- 45_compare_jumps, opcodes 21 to 23, for general-purpose operands; `jgt` and `jlw` where the setting of
`CMP_OVERFLOW` leaves nothing open (decisions D9, D10, D13, D19; logs 13, 14, 16). After an event `pc` is at
the cell being processed (60_exceptions section 3, decision D23, log 15). -/
def Obligations.CompareJumpsFollowTheirRules : Prop :=
  ∀ (s : State) (a b t : Int), Invariant s → inRange s.params s.pc = true →
    namesSpecial s.params a = false → namesSpecial s.params b = false →
    (s.holds (.jeq a b t) → Completes (.jeq a b t) s (s.arch.settle s.arch.jeq)) ∧
    (s.comparisonOpen a b = false →
      (s.holds (.jgt a b t) → Completes (.jgt a b t) s (s.arch.settle s.arch.jgt)) ∧
      (s.holds (.jlw a b t) → Completes (.jlw a b t) s (s.arch.settle s.arch.jlw)))

/-- 46_ldi, opcode 24, for a general-purpose destination: the encoding, the pseudocode and the events in its
order (decision D13, log 14). After an event `pc` is at the cell being processed (60_exceptions section 3,
decision D23, log 15). -/
def Obligations.LdiFollowsItsRule : Prop :=
  ∀ (s : State) (a i : Int), Invariant s → inRange s.params s.pc = true →
    namesSpecial s.params a = false → s.holds (.ldi a i) →
    encode (.ldi a i) = [24, a, i] ∧ Completes (.ldi a i) s (s.arch.settle s.arch.ldi)

/-- 46_ldi R222: `ldi` and `moveImmReg` have the same effect, with the operand cells exchanged. -/
def Obligations.LdiIsMoveImmediate : Prop :=
  ∀ (s : State) (a i : Int), Invariant s → s.fits 3 → registerIdValid s.params a = true →
    ∃ t u, exec (.ldi a i) s = .next t ∧ exec (.moveImmReg i a) s = .next u ∧ t.arch = u.arch

/-! ### The whole machine -/

/-- Every step keeps the invariant: the parameters stay valid and the register file keeps its size, every
register, bus, slot, latch and cell holds a word (00_scope R9), the selector names a register of the machine,
memory stays canonical, and no store is half done at an instruction boundary (10_state section 9). -/
def Obligations.StepKeepsTheInvariant : Prop :=
  ∀ s t : State, Invariant s → StepsTo s t → Invariant t

/-- No step stops (93 part 2: "There is no `stuck` case", which it says of RUNNING states). That a halt and a
fault are next states, and that a machine which is HALTED or in FAULT steps to itself, is the model's choice
(log 15). -/
def Obligations.EveryStepHasANextState : Prop :=
  ∀ s : State, ∃ t, StepsTo s t

/-- 00_scope section 5: the transaction-level step and the instruction-level rules agree on the
architectural state, in every state, events included, where the instruction leaves no result open by
70_reset_and_hazards R313, nor by 45_compare_jumps R210 (c) under the setting `openBranch`. After an event
`pc` is at the cell being processed (decision D23, log 15); a machine that is HALTED or in FAULT steps to itself
(log 15). -/
def Obligations.StepRefinesTheInstructionRules : Prop :=
  ∀ s : State, Invariant s → s.leavesResultOpen = false → ∃ t, StepsTo s t ∧ t.arch = Arch.step s.arch

/-- 40_micro_operations section 8: the step, which runs a decoded instruction, is the control unit's
cycle with every cell read from memory by `mem.read()` (log 19). -/
def Obligations.StepIsTheTransactionCycle : Prop :=
  ∀ s : State, s.leavesResultOpen = false → step s = cycle s

/-- 10_state section 9, 40_micro_operations section 8: what a step does to the architectural state depends on
the architectural state alone, not on what an earlier instruction left on a bus, in a slot, in IR, in the
selector or in the latch. The spec says so but for an ALU instruction with a `Reg` operand that names PC, IR or
Flags, which reads `intbus1` without having written it (70_reset_and_hazards section 3). That it holds there too
is the model's choice: what such an instruction leaves open is a free value, drawn by count and by nothing else
(logs 8, 9), and so the two states have equal counts; the same for a decision that `CMP_OVERFLOW` leaves open
(log 13). A machine that is HALTED or in FAULT steps to itself (log 15). -/
def Obligations.StepDependsOnArchitecturalStateAlone : Prop :=
  ∀ s s' t t' : State, s.arch = s'.arch → Invariant s → Invariant s' →
    s.freeCount = s'.freeCount → StepsTo s t → StepsTo s' t' → t.arch = t'.arch

/-- 60_exceptions section 3 (decision D23, log 15): a step that ends in FAULT has changed no
general-purpose register, no flag and no memory cell, and leaves `phase` IDLE; `pc` is the address of
one of the instruction's cells (of its opcode cell, where that cell itself cannot be read). -/
def Obligations.FaultsArePrecise : Prop :=
  ∀ (s t : State) (f : Fault), Invariant s → s.status = .running → StepsTo s t → t.status = .fault f →
    t.gpr = s.gpr ∧ t.flags = s.flags ∧ t.mem = s.mem ∧ t.phase = .idle ∧
      ∃ k : Nat, t.pc = s.toWord (s.pc + k) ∧
        match s.instructionAtPc with
        | some i => k < i.length
        | none => k = 0

/-- 60_exceptions sections 1 and 3: a step raises a fault only for a bad word: an
`AddressOutOfRange(a)` for a word `a` that is no address, a `RegisterIdOutOfRange(v)` for a word `v`
that names no register (decision D13, log 14). -/
def Obligations.FaultsHaveACause : Prop :=
  ∀ (s t : State) (f : Fault), Invariant s → s.status = .running → StepsTo s t → t.status = .fault f →
    (∀ a, f = .addressOutOfRange a → a < 0 ∨ s.params.memSize ≤ a) ∧
    (∀ v, f = .registerIdOutOfRange v → v < 0 ∨ s.params.numReg ≤ v)

/-- 10_state R23 (derived by the spec): a general-purpose register changes only as the destination of
opcodes 0, 1, 4, 5, 11, 13, 14, 15 and 24. -/
def Obligations.OnlyDestinationRegistersChange : Prop :=
  ∀ (s t : State) (k : Nat), Invariant s → StepsTo s t → t.gpr[k]? ≠ s.gpr[k]? →
    ∃ i d, s.instructionAtPc = some i ∧ registerDestination i = some d ∧ regOfId s.params d = some (.gpr k)

/-- 10_state section 5 (decisions D7, D10, D11): the flags change only by one of the ten arithmetic
instructions or by a move or `ldi` whose destination is Flags. -/
def Obligations.OnlyArithmeticAndFlagMovesChangeFlags : Prop :=
  ∀ s t : State, Invariant s → StepsTo s t → t.flags ≠ s.flags →
    ∃ i, s.instructionAtPc = some i ∧
      (isArithmetic i = true ∨ ∃ d, registerDestination i = some d ∧ regOfId s.params d = some .flags)

/-- 20_memory section 1: a step changes a memory cell only if its instruction is one of opcodes 2, 3, 6,
7, 12 and 16, and only the cell that instruction addresses. -/
def Obligations.OnlyDestinationCellsChange : Prop :=
  ∀ (s t : State) (a : Nat), Invariant s → StepsTo s t → readCell t.mem a ≠ readCell s.mem a →
    ∃ i d, s.instructionAtPc = some i ∧ memoryDestination i = some d ∧ d.toNat = a

/-- 10_state section 3, 44_jumps section 1: an instruction that completes leaves `pc` just after its
last cell, unless it is a jump, which may leave its target, or a write into PC. -/
def Obligations.ControlTransfersOnlyByJumpsAndPcWrites : Prop :=
  ∀ s t : State, Invariant s → s.status = .running → StepsTo s t → t.status = .running →
    ∃ i, s.instructionAtPc = some i ∧
      (t.pc = s.toWord (s.pc + i.length) ∨ jumpTarget i = some t.pc ∨
        ∃ d, registerDestination i = some d ∧ regOfId s.params d = some .pc)

/-- 10_state section 5 (derived by the spec): after an arithmetic instruction whose operands are
general-purpose registers, memory cells and immediates the flags hold one of three values: ZERO alone,
NONZERO alone, or NEGATIVE and NONZERO (decisions D4, D7; logs 11, 18). -/
def Obligations.ArithmeticLeavesOneOfThreeFlagValues : Prop :=
  ∀ (s t : State) (i : Instr), Invariant s → s.status = .running → s.instructionAtPc = some i →
    isArithmetic i = true → s.namesSpecialOperand i = false → StepsTo s t →
    (s.params.addUpdatesFlags = true ∨ 4 ≤ i.opcode) → t.status = .running →
    t.flags = 1#3 <<< s.params.flagZ.val ∨ t.flags = 1#3 <<< s.params.flagNZ.val ∨
      t.flags = (1#3 <<< s.params.flagN.val ||| 1#3 <<< s.params.flagNZ.val)

/-- 20_memory section 10 (derived by the spec): a store is seen by the next fetch of that cell, with
nothing to do in between: after `moveRegMem` into the cell that follows it, the next step's opcode is
the word stored. -/
def Obligations.StoredWordIsFetchedNext : Prop :=
  ∀ (s : State) (j : Nat), Invariant s → s.fits 4 → j < s.params.numGpr →
    ∃ t, exec (.moveRegMem j (s.pc + 3)) s = .next t ∧
      t.pc = s.pc + 3 ∧ t.streamCell 0 = s.gpr.getD j 0

/-! ### Launch -/

/-- 70_reset_and_hazards section 2 (decision D16, log 21): the loader writes the image cells before the
first `-1` to consecutive cells from address 0, then the sentinel, and no other cell. -/
def Obligations.LoaderWritesTheImageAndItsSentinel : Prop :=
  ∀ (s : State) (object : List Int), s.mem.wf s.params.memSize = true →
    objectFits s.params object = true →
    (∀ k, k < (objectCells object).length →
      readCell (s.loadObject object).mem k = (objectCells object).getD k 0) ∧
    readCell (s.loadObject object).mem (objectCells object).length = sentinel ∧
    (∀ k, (objectCells object).length < k → readCell (s.loadObject object).mem k = readCell s.mem k) ∧
    (s.loadObject object).mem.wf s.params.memSize = true

/-- Every state of every run keeps the invariant: on every machine, from every initial memory of words and
every object image that fits (70_reset_and_hazards section 2: a model takes the whole initial memory as an
argument; the loader is decision D16, log 21). The reset values the model chose (log 7) enter only in that they
are words. -/
def Obligations.ReachableStatesKeepTheInvariant : Prop :=
  ∀ (P : Params) (memInit : Memory) (object : List Int) (s : State), P.valid = true →
    memInit.wf P.memSize = true → (memInit.map Prod.snd).all (isWord P.xlen) = true →
    objectFits P object = true → Reachable P memInit object s → Invariant s

/-! ### Words and parameters -/

/-- 00_scope R9: `wrap(v)` is the unique word congruent to `v` modulo `2^XLEN`. -/
def Obligations.WrapGivesTheCongruentWord : Prop :=
  ∀ (n : Nat) (v w : Int), 1 ≤ n →
    isWord n (wrap n v) = true ∧ (2 ^ n : Int) ∣ wrap n v - v ∧
      (isWord n w = true → (2 ^ n : Int) ∣ w - v → w = wrap n v)

/-- 00_scope section 4: "N fixed at construction"; no step changes a parameter of the machine. That the
state carries the parameters is the model's choice (log 2). -/
def Obligations.StepsKeepTheParameters : Prop :=
  ∀ s t : State, StepsTo s t → t.params = s.params
end

