-- ==== Sys2Proof/Laws/Word.lean ====
section
/-! SUPPORT. Words and wrapping (00_scope R9), and what valid parameters give (R7). -/

namespace Sys2Proof

open Sys2Proof.Config

theorem isWord_iff {n : Nat} {v : Int} : isWord n v = true ↔ -2 ^ (n - 1) ≤ v ∧ v < 2 ^ (n - 1) := by
  simp [isWord]

/-- Half of `2 ^ n` doubled: the range of a word has `2 ^ n` members. -/
theorem two_mul_half {n : Nat} (hn : 1 ≤ n) : (2 : Int) * 2 ^ (n - 1) = 2 ^ n := by
  obtain ⟨k, rfl⟩ : ∃ k, n = k + 1 := ⟨n - 1, by omega⟩
  rw [Nat.add_sub_cancel, pow_succ]; omega

/-- The result of wrapping is a word. -/
theorem wrap_isWord {n : Nat} (hn : 1 ≤ n) (v : Int) : isWord n (wrap n v) = true := by
  have h2 := two_mul_half hn
  have hpos : 0 < 2 ^ n := by positivity
  have hl := Int.le_bmod (x := v) hpos
  have hu := Int.bmod_lt (x := v) hpos
  push_cast at hl hu
  rw [isWord_iff, wrap]
  omega

/-- A word is its own wrapping. -/
theorem wrap_of_isWord {n : Nat} (hn : 1 ≤ n) {v : Int} (h : isWord n v = true) : wrap n v = v := by
  have h2 := two_mul_half hn
  rw [isWord_iff] at h
  refine Int.bmod_eq_of_le ?_ ?_ <;> push_cast <;> omega

/-- Wrapping before an addition changes nothing. -/
theorem wrap_wrap_add (n : Nat) (v w : Int) : wrap n (wrap n v + w) = wrap n (v + w) := by
  simp [wrap]

theorem wrap_wrap (n : Nat) (v : Int) : wrap n (wrap n v) = wrap n v := by
  simp [wrap]

/-! The address of a cell after one more advance of the program counter. -/

theorem wrap_advance_1 (n : Nat) (x : Int) : wrap n (wrap n (x + 1) + 1) = wrap n (x + 2) := by
  rw [wrap_wrap_add, add_assoc]; rfl

theorem wrap_advance_2 (n : Nat) (x : Int) : wrap n (wrap n (x + 2) + 1) = wrap n (x + 3) := by
  rw [wrap_wrap_add, add_assoc]; rfl

theorem wrap_advance_3 (n : Nat) (x : Int) : wrap n (wrap n (x + 3) + 1) = wrap n (x + 4) := by
  rw [wrap_wrap_add, add_assoc]; rfl

/-! ### Valid parameters -/

/-- What the constraints of 92 "Parameters left open" say, as one conjunction. -/
theorem Config.Params.valid_iff (P : Params) : P.valid = true ↔
    8 ≤ P.xlen ∧ 1 ≤ P.memSize ∧ P.memSize ≤ 2 ^ (P.xlen - 1) ∧ 2 ≤ P.numGpr ∧ P.numReg ≤ 2 ^ (P.xlen - 1) ∧
      P.flagZ ≠ P.flagN ∧ P.flagZ ≠ P.flagNZ ∧ P.flagN ≠ P.flagNZ := by
  simp only [Params.valid, Bool.and_eq_true, decide_eq_true_eq]
  tauto

theorem Config.Params.one_le_xlen {P : Params} (h : P.valid = true) : 1 ≤ P.xlen := by
  have := ((P.valid_iff).1 h).1
  omega

/-- A word of 8 bits is one of every machine: opcode numbers, the flags read as a word, the sentinel. -/
theorem Config.Params.isWord_small {P : Params} (h : P.valid = true) {v : Int} (hl : -128 ≤ v)
    (hu : v < 128) : isWord P.xlen v = true := by
  have hx := ((P.valid_iff).1 h).1
  have h7 : (2 : Int) ^ 7 ≤ 2 ^ (P.xlen - 1) := pow_le_pow_right₀ (by norm_num) (by omega)
  rw [isWord_iff]
  norm_num at h7
  omega

/-- An address is a word (20_memory R62). -/
theorem Config.Params.isWord_of_inRange {P : Params} (h : P.valid = true) {a : Int} (hl : 0 ≤ a)
    (hu : a < P.memSize) : isWord P.xlen a = true := by
  have hn : (P.memSize : Int) ≤ 2 ^ (P.xlen - 1) := by exact_mod_cast ((P.valid_iff).1 h).2.2.1
  rw [isWord_iff]
  omega

end Sys2Proof
end

