-- ==== Sys2Proof/Laws/Memory.lean ====
section
/-! SUPPORT. Memory: reading after writing, and the canonical form (20_memory R62, R71). -/

namespace Sys2Proof.Machine

open Sys2Proof.Config

/-! ### The range check -/

theorem inRange_iff {P : Params} {a : Int} : inRange P a = true ↔ 0 ≤ a ∧ a < P.memSize := by
  simp [inRange]

theorem inRange_false_iff {P : Params} {a : Int} : inRange P a = false ↔ a < 0 ∨ P.memSize ≤ a := by
  rw [← Bool.not_eq_true, inRange_iff]; omega

theorem inRange_eq_addressValid (P : Params) (a : Int) : inRange P a = addressValid P a := rfl

/-- The cell number of an address. -/
theorem toNat_lt_of_inRange {P : Params} {a : Int} (h : inRange P a = true) : a.toNat < P.memSize := by
  rw [inRange_iff] at h; omega

/-- Different addresses are different cells. -/
theorem toNat_ne_of_ne {P : Params} {a b : Int} (ha : inRange P a = true) (hb : inRange P b = true)
    (h : a ≠ b) : a.toNat ≠ b.toNat := by
  rw [inRange_iff] at ha hb; omega

/-- An address is a word, which wrapping leaves alone. -/
theorem wrap_of_inRange {P : Params} (hP : P.valid = true) {a : Int} (h : inRange P a = true) :
    wrap P.xlen a = a := by
  rw [inRange_iff] at h
  exact wrap_of_isWord (P.one_le_xlen hP) (P.isWord_of_inRange hP h.1 h.2)

theorem fits_iff {s : State} {n : Nat} : s.fits n ↔ 0 ≤ s.pc ∧ s.pc + n ≤ s.params.memSize := Iff.rfl

/-- The cells of an instruction that lies in memory are addresses, and do not wrap. -/
theorem toWord_of_fits {s : State} {n k : Nat} (hP : s.params.valid = true) (h : s.fits n) (hk : k < n) :
    s.toWord (s.pc + k) = s.pc + k := by
  rw [fits_iff] at h
  exact wrap_of_inRange hP (inRange_iff.2 ⟨by omega, by omega⟩)

theorem inRange_of_fits {s : State} {n k : Nat} (hP : s.params.valid = true) (h : s.fits n) (hk : k < n) :
    inRange s.params (s.toWord (s.pc + k)) = true := by
  rw [toWord_of_fits hP h hk, inRange_iff]
  rw [fits_iff] at h
  omega

/-- `k` advances of the program counter reach `wrap(pc0 + k)` (30_encoding R90). -/
theorem cellAddress_eq {s : State} (h : s.toWord s.pc = s.pc) (k : Nat) :
    s.cellAddress k = s.toWord (s.pc + k) := by
  induction k with
  | zero => simpa [State.cellAddress] using h.symm
  | succ k ih =>
    rw [State.cellAddress, ih, State.toWord, State.toWord, wrap_wrap_add, add_assoc]
    norm_num

/-! ### Reading and writing one cell -/

theorem wfFrom_mono {N : Nat} {m : Memory} {low low' : Nat} (h : wfFrom N low m = true) (hl : low' ≤ low) :
    wfFrom N low' m = true := by
  cases m with
  | nil => rfl
  | cons c rest =>
    obtain ⟨k, v⟩ := c
    simp only [wfFrom, Bool.and_eq_true, decide_eq_true_eq] at h ⊢
    exact ⟨⟨⟨by omega, h.1.1.2⟩, h.1.2⟩, h.2⟩

/-- A cell below the canonical part is not listed. -/
theorem readCell_of_lt {N : Nat} {m : Memory} {low a : Nat} (h : wfFrom N low m = true) (ha : a < low) :
    readCell m a = unlistedCell := by
  induction m generalizing low with
  | nil => rfl
  | cons c rest ih =>
    obtain ⟨k, v⟩ := c
    simp only [wfFrom, Bool.and_eq_true, decide_eq_true_eq] at h
    rw [readCell, if_neg (by omega)]
    exact ih h.2 (by omega)

theorem readCell_consCell_same {N : Nat} {rest : Memory} {low a : Nat} (h : wfFrom N low rest = true) (ha : a < low)
    (v : Int) : readCell (consCell a v rest) a = v := by
  unfold consCell
  split
  · rename_i hv; rw [readCell_of_lt h ha, hv]
  · simp [readCell]

theorem readCell_consCell_other {a b : Nat} (hab : b ≠ a) (v : Int) (rest : Memory) :
    readCell (consCell a v rest) b = readCell rest b := by
  unfold consCell
  split
  · rfl
  · rw [readCell, if_neg (Ne.symm hab)]

theorem readCell_writeCell_same_from {N : Nat} {m : Memory} {low : Nat} (h : wfFrom N low m = true) (a : Nat) (v : Int) :
    readCell (writeCell m a v) a = v := by
  induction m generalizing low with
  | nil => exact readCell_consCell_same (N := N) (low := a + 1) rfl (by omega) v
  | cons c rest ih =>
    obtain ⟨k, w⟩ := c
    have h' := h
    simp only [wfFrom, Bool.and_eq_true, decide_eq_true_eq] at h'
    rw [writeCell]
    split
    · rename_i hlt
      refine readCell_consCell_same (N := N) (low := k) ?_ hlt v
      simp only [wfFrom, Bool.and_eq_true, decide_eq_true_eq]
      exact ⟨⟨⟨le_refl k, h'.1.1.2⟩, h'.1.2⟩, h'.2⟩
    · split
      · rename_i heq; exact readCell_consCell_same h'.2 (by omega) v
      · rename_i hne; rw [readCell, if_neg (Ne.symm hne)]; exact ih h'.2

/-- Reading a cell after writing it gives the word written. -/
theorem readCell_writeCell_same {N : Nat} {m : Memory} (h : m.wf N = true) (a : Nat) (v : Int) :
    readCell (writeCell m a v) a = v := readCell_writeCell_same_from h a v

/-- Writing a cell leaves every other cell alone. -/
theorem readCell_writeCell_other {a b : Nat} (hab : b ≠ a) (m : Memory) (v : Int) :
    readCell (writeCell m a v) b = readCell m b := by
  induction m with
  | nil => exact readCell_consCell_other hab v []
  | cons c rest ih =>
    obtain ⟨k, w⟩ := c
    rw [writeCell]
    split
    · exact readCell_consCell_other hab v _
    · split
      · rename_i heq
        rw [readCell_consCell_other hab, readCell, if_neg (by omega)]
      · rw [readCell, readCell, ih]

/-! ### The canonical form -/

theorem consCell_wfFrom {N : Nat} {rest : Memory} {low a : Nat} {v : Int} (h : wfFrom N (a + 1) rest = true)
    (hl : low ≤ a) (ha : a < N) : wfFrom N low (consCell a v rest) = true := by
  unfold consCell
  split
  · exact wfFrom_mono h (by omega)
  · rename_i hv
    simp only [wfFrom, Bool.and_eq_true, decide_eq_true_eq]
    exact ⟨⟨⟨hl, ha⟩, hv⟩, h⟩

theorem writeCell_wfFrom {N : Nat} {m : Memory} {low a : Nat} (h : wfFrom N low m = true) (hl : low ≤ a)
    (ha : a < N) (v : Int) : wfFrom N low (writeCell m a v) = true := by
  induction m generalizing low with
  | nil => exact consCell_wfFrom rfl hl ha
  | cons c rest ih =>
    obtain ⟨k, w⟩ := c
    have h' := h
    simp only [wfFrom, Bool.and_eq_true, decide_eq_true_eq] at h'
    rw [writeCell]
    split
    · rename_i hlt
      refine consCell_wfFrom ?_ hl ha
      simp only [wfFrom, Bool.and_eq_true, decide_eq_true_eq]
      exact ⟨⟨⟨by omega, h'.1.1.2⟩, h'.1.2⟩, h'.2⟩
    · split
      · rename_i heq; subst heq; exact consCell_wfFrom h'.2 hl ha
      · rename_i hnlt hne
        simp only [wfFrom, Bool.and_eq_true, decide_eq_true_eq]
        exact ⟨h'.1, ih h'.2 (by omega)⟩

/-- A write to a cell that exists keeps the canonical form. -/
theorem writeCell_wf {N : Nat} {m : Memory} (h : m.wf N = true) {a : Nat} (ha : a < N) (v : Int) :
    (writeCell m a v).wf N = true := writeCell_wfFrom h (Nat.zero_le a) ha v

/-- Two canonical memories that read alike everywhere are the same list. -/
theorem eq_of_readCell_eq_from {N : Nat} {m m' : Memory} {low : Nat} (h : wfFrom N low m = true) (h' : wfFrom N low m' = true)
    (he : ∀ a, readCell m a = readCell m' a) : m = m' := by
  induction m generalizing m' low with
  | nil =>
    cases m' with
    | nil => rfl
    | cons c rest =>
      obtain ⟨k, v⟩ := c
      simp only [wfFrom, Bool.and_eq_true, decide_eq_true_eq] at h'
      have := he k
      rw [readCell, readCell, if_pos rfl] at this
      exact absurd this.symm h'.1.2
  | cons c rest ih =>
    obtain ⟨k, v⟩ := c
    have hm := h
    simp only [wfFrom, Bool.and_eq_true, decide_eq_true_eq] at h
    cases m' with
    | nil =>
      have := he k
      rw [readCell, readCell, if_pos rfl] at this
      exact absurd this h.1.2
    | cons c' rest' =>
      obtain ⟨k', v'⟩ := c'
      have hm' := h'
      simp only [wfFrom, Bool.and_eq_true, decide_eq_true_eq] at h'
      have hk : k = k' := by
        rcases Nat.lt_trichotomy k k' with hlt | heq | hgt
        · have := he k
          rw [readCell, if_pos rfl, readCell, if_neg (by omega), readCell_of_lt h'.2 (by omega)] at this
          exact absurd this h.1.2
        · exact heq
        · have := he k'
          rw [readCell, if_neg (by omega), readCell_of_lt h.2 (by omega), readCell, if_pos rfl] at this
          exact absurd this.symm h'.1.2
      subst hk
      have hv : v = v' := by simpa [readCell] using he k
      subst hv
      refine congrArg _ (ih h.2 h'.2 fun a => ?_)
      by_cases hak : a ≤ k
      · rw [readCell_of_lt h.2 (by omega), readCell_of_lt h'.2 (by omega)]
      · simpa [readCell, show k ≠ a by omega] using he a

/-- Equal contents, equal data. -/
theorem eq_of_readCell_eq {N : Nat} {m m' : Memory} (h : m.wf N = true) (h' : m'.wf N = true)
    (he : ∀ a, readCell m a = readCell m' a) : m = m' := eq_of_readCell_eq_from h h' he

/-- The last of two writes to one cell stands alone. -/
theorem writeCell_writeCell {N : Nat} {m : Memory} (h : m.wf N = true) {a : Nat} (ha : a < N) (v w : Int) :
    writeCell (writeCell m a v) a w = writeCell m a w := by
  have h1 := writeCell_wf h ha v
  refine eq_of_readCell_eq (writeCell_wf h1 ha w) (writeCell_wf h ha w) fun b => ?_
  by_cases hb : b = a
  · subst hb; rw [readCell_writeCell_same h1, readCell_writeCell_same h]
  · rw [readCell_writeCell_other hb, readCell_writeCell_other hb, readCell_writeCell_other hb]

/-- Writing consecutive cells keeps the canonical form, wherever it starts. -/
theorem writeCells_wf {N : Nat} {m : Memory} (h : m.wf N = true) (a : Nat) (vs : List Int) :
    (writeCells N m a vs).wf N = true := by
  induction vs generalizing m a with
  | nil => exact h
  | cons v rest ih =>
    rw [writeCells]
    refine ih ?_ (a + 1)
    split
    · exact writeCell_wf h ‹_› v
    · exact h

/-- Writing consecutive cells leaves the cells below alone. -/
theorem readCell_writeCells_of_lt {N : Nat} {a b : Nat} (hb : b < a) (m : Memory) (vs : List Int) :
    readCell (writeCells N m a vs) b = readCell m b := by
  induction vs generalizing m a with
  | nil => rfl
  | cons v rest ih =>
    rw [writeCells, ih (by omega)]
    split
    · exact readCell_writeCell_other (by omega) m v
    · rfl

theorem reset_memory_wf (P : Params) : (State.resetWith P).mem.wf P.memSize = true := rfl

end Sys2Proof.Machine
end

