-- ==== Sys2Proof/Laws/State.lean ====
section
/-! SUPPORT. The small lemmas of the state updates: one for each field and update, and the
architectural view of each. -/

namespace Sys2Proof.Machine

open Sys2Proof.Config

/-! ### Buses -/

@[simp] theorem busPut_params (s : State) (b : Bus) (v : Int) : (s.busPut b v).params = s.params := by
  cases b <;> rfl
@[simp] theorem busPut_gpr (s : State) (b : Bus) (v : Int) : (s.busPut b v).gpr = s.gpr := by
  cases b <;> rfl
@[simp] theorem busPut_pc (s : State) (b : Bus) (v : Int) : (s.busPut b v).pc = s.pc := by
  cases b <;> rfl
@[simp] theorem busPut_ir (s : State) (b : Bus) (v : Int) : (s.busPut b v).ir = s.ir := by
  cases b <;> rfl
@[simp] theorem busPut_flags (s : State) (b : Bus) (v : Int) : (s.busPut b v).flags = s.flags := by
  cases b <;> rfl
@[simp] theorem busPut_mem (s : State) (b : Bus) (v : Int) : (s.busPut b v).mem = s.mem := by
  cases b <;> rfl
@[simp] theorem busPut_status (s : State) (b : Bus) (v : Int) : (s.busPut b v).status = s.status := by
  cases b <;> rfl
@[simp] theorem busPut_slot0 (s : State) (b : Bus) (v : Int) : (s.busPut b v).slot0 = s.slot0 := by
  cases b <;> rfl
@[simp] theorem busPut_slot1 (s : State) (b : Bus) (v : Int) : (s.busPut b v).slot1 = s.slot1 := by
  cases b <;> rfl
@[simp] theorem busPut_aluop (s : State) (b : Bus) (v : Int) : (s.busPut b v).aluop = s.aluop := by
  cases b <;> rfl
@[simp] theorem busPut_sel (s : State) (b : Bus) (v : Int) : (s.busPut b v).sel = s.sel := by
  cases b <;> rfl
@[simp] theorem busPut_latch (s : State) (b : Bus) (v : Int) : (s.busPut b v).latch = s.latch := by
  cases b <;> rfl
@[simp] theorem busPut_phase (s : State) (b : Bus) (v : Int) : (s.busPut b v).phase = s.phase := by
  cases b <;> rfl
@[simp] theorem busPut_freeCount (s : State) (b : Bus) (v : Int) : (s.busPut b v).freeCount = s.freeCount := by
  cases b <;> rfl
@[simp] theorem busGet_busPut (s : State) (b : Bus) (v : Int) : (s.busPut b v).busGet b = v := by cases b <;> rfl
@[simp] theorem busPut_arch (s : State) (b : Bus) (v : Int) : (s.busPut b v).arch = s.arch := by cases b <;> rfl

@[simp] theorem busPut_ext_extbus (s : State) (v : Int) : (s.busPut .ext v).extbus = v := rfl
@[simp] theorem busPut_ext_intbus1 (s : State) (v : Int) : (s.busPut .ext v).intbus1 = s.intbus1 := rfl
@[simp] theorem busPut_ext_intbus2 (s : State) (v : Int) : (s.busPut .ext v).intbus2 = s.intbus2 := rfl
@[simp] theorem busPut_int1_extbus (s : State) (v : Int) : (s.busPut .int1 v).extbus = s.extbus := rfl
@[simp] theorem busPut_int1_intbus1 (s : State) (v : Int) : (s.busPut .int1 v).intbus1 = v := rfl
@[simp] theorem busPut_int1_intbus2 (s : State) (v : Int) : (s.busPut .int1 v).intbus2 = s.intbus2 := rfl
@[simp] theorem busPut_int2_extbus (s : State) (v : Int) : (s.busPut .int2 v).extbus = s.extbus := rfl
@[simp] theorem busPut_int2_intbus1 (s : State) (v : Int) : (s.busPut .int2 v).intbus1 = s.intbus1 := rfl
@[simp] theorem busPut_int2_intbus2 (s : State) (v : Int) : (s.busPut .int2 v).intbus2 = v := rfl

/-! ### Registers -/

@[simp] theorem setReg_params (s : State) (r : Reg) (v : Int) : (s.setReg r v).params = s.params := by
  cases r <;> rfl
@[simp] theorem setReg_mem (s : State) (r : Reg) (v : Int) : (s.setReg r v).mem = s.mem := by
  cases r <;> rfl
@[simp] theorem setReg_status (s : State) (r : Reg) (v : Int) : (s.setReg r v).status = s.status := by
  cases r <;> rfl
@[simp] theorem setReg_extbus (s : State) (r : Reg) (v : Int) : (s.setReg r v).extbus = s.extbus := by
  cases r <;> rfl
@[simp] theorem setReg_intbus1 (s : State) (r : Reg) (v : Int) : (s.setReg r v).intbus1 = s.intbus1 := by
  cases r <;> rfl
@[simp] theorem setReg_intbus2 (s : State) (r : Reg) (v : Int) : (s.setReg r v).intbus2 = s.intbus2 := by
  cases r <;> rfl
@[simp] theorem setReg_slot0 (s : State) (r : Reg) (v : Int) : (s.setReg r v).slot0 = s.slot0 := by
  cases r <;> rfl
@[simp] theorem setReg_slot1 (s : State) (r : Reg) (v : Int) : (s.setReg r v).slot1 = s.slot1 := by
  cases r <;> rfl
@[simp] theorem setReg_aluop (s : State) (r : Reg) (v : Int) : (s.setReg r v).aluop = s.aluop := by
  cases r <;> rfl
@[simp] theorem setReg_sel (s : State) (r : Reg) (v : Int) : (s.setReg r v).sel = s.sel := by
  cases r <;> rfl
@[simp] theorem setReg_latch (s : State) (r : Reg) (v : Int) : (s.setReg r v).latch = s.latch := by
  cases r <;> rfl
@[simp] theorem setReg_phase (s : State) (r : Reg) (v : Int) : (s.setReg r v).phase = s.phase := by
  cases r <;> rfl
@[simp] theorem setReg_freeCount (s : State) (r : Reg) (v : Int) : (s.setReg r v).freeCount = s.freeCount := by
  cases r <;> rfl

@[simp] theorem setReg_gpr_gpr (s : State) (i : Nat) (v : Int) : (s.setReg (.gpr i) v).gpr = s.gpr.set i v := rfl
@[simp] theorem setReg_gpr_pc (s : State) (i : Nat) (v : Int) : (s.setReg (.gpr i) v).pc = s.pc := rfl
@[simp] theorem setReg_gpr_ir (s : State) (i : Nat) (v : Int) : (s.setReg (.gpr i) v).ir = s.ir := rfl
@[simp] theorem setReg_gpr_flags (s : State) (i : Nat) (v : Int) : (s.setReg (.gpr i) v).flags = s.flags := rfl
@[simp] theorem setReg_pc_gpr (s : State) (v : Int) : (s.setReg .pc v).gpr = s.gpr := rfl
@[simp] theorem setReg_pc_pc (s : State) (v : Int) : (s.setReg .pc v).pc = v := rfl
@[simp] theorem setReg_pc_ir (s : State) (v : Int) : (s.setReg .pc v).ir = s.ir := rfl
@[simp] theorem setReg_pc_flags (s : State) (v : Int) : (s.setReg .pc v).flags = s.flags := rfl
@[simp] theorem setReg_ir_gpr (s : State) (v : Int) : (s.setReg .ir v).gpr = s.gpr := rfl
@[simp] theorem setReg_ir_pc (s : State) (v : Int) : (s.setReg .ir v).pc = s.pc := rfl
@[simp] theorem setReg_ir_ir (s : State) (v : Int) : (s.setReg .ir v).ir = v := rfl
@[simp] theorem setReg_ir_flags (s : State) (v : Int) : (s.setReg .ir v).flags = s.flags := rfl
@[simp] theorem setReg_flags_gpr (s : State) (v : Int) : (s.setReg .flags v).gpr = s.gpr := rfl
@[simp] theorem setReg_flags_pc (s : State) (v : Int) : (s.setReg .flags v).pc = s.pc := rfl
@[simp] theorem setReg_flags_ir (s : State) (v : Int) : (s.setReg .flags v).ir = s.ir := rfl
@[simp] theorem setReg_flags_flags (s : State) (v : Int) : (s.setReg .flags v).flags = flagsOfWord v := rfl

/-! ### ALU slots -/

@[simp] theorem setSlot_params (s : State) (i : Slot) (v : Int) : (s.setSlot i v).params = s.params := by
  cases i <;> rfl
@[simp] theorem setSlot_gpr (s : State) (i : Slot) (v : Int) : (s.setSlot i v).gpr = s.gpr := by
  cases i <;> rfl
@[simp] theorem setSlot_pc (s : State) (i : Slot) (v : Int) : (s.setSlot i v).pc = s.pc := by
  cases i <;> rfl
@[simp] theorem setSlot_ir (s : State) (i : Slot) (v : Int) : (s.setSlot i v).ir = s.ir := by
  cases i <;> rfl
@[simp] theorem setSlot_flags (s : State) (i : Slot) (v : Int) : (s.setSlot i v).flags = s.flags := by
  cases i <;> rfl
@[simp] theorem setSlot_mem (s : State) (i : Slot) (v : Int) : (s.setSlot i v).mem = s.mem := by
  cases i <;> rfl
@[simp] theorem setSlot_status (s : State) (i : Slot) (v : Int) : (s.setSlot i v).status = s.status := by
  cases i <;> rfl
@[simp] theorem setSlot_extbus (s : State) (i : Slot) (v : Int) : (s.setSlot i v).extbus = s.extbus := by
  cases i <;> rfl
@[simp] theorem setSlot_intbus1 (s : State) (i : Slot) (v : Int) : (s.setSlot i v).intbus1 = s.intbus1 := by
  cases i <;> rfl
@[simp] theorem setSlot_intbus2 (s : State) (i : Slot) (v : Int) : (s.setSlot i v).intbus2 = s.intbus2 := by
  cases i <;> rfl
@[simp] theorem setSlot_aluop (s : State) (i : Slot) (v : Int) : (s.setSlot i v).aluop = s.aluop := by
  cases i <;> rfl
@[simp] theorem setSlot_sel (s : State) (i : Slot) (v : Int) : (s.setSlot i v).sel = s.sel := by
  cases i <;> rfl
@[simp] theorem setSlot_latch (s : State) (i : Slot) (v : Int) : (s.setSlot i v).latch = s.latch := by
  cases i <;> rfl
@[simp] theorem setSlot_phase (s : State) (i : Slot) (v : Int) : (s.setSlot i v).phase = s.phase := by
  cases i <;> rfl
@[simp] theorem setSlot_freeCount (s : State) (i : Slot) (v : Int) : (s.setSlot i v).freeCount = s.freeCount := by
  cases i <;> rfl
@[simp] theorem getSlot_setSlot (s : State) (i : Slot) (v : Int) : (s.setSlot i v).getSlot i = v := by cases i <;> rfl
@[simp] theorem setSlot_arch (s : State) (i : Slot) (v : Int) : (s.setSlot i v).arch = s.arch := by cases i <;> rfl

/-! ### ALU commands -/

@[simp] theorem aluCommand_params (s : State) (op : AluOp) : (s.aluCommand op).params = s.params := rfl
@[simp] theorem aluCommand_gpr (s : State) (op : AluOp) : (s.aluCommand op).gpr = s.gpr := rfl
@[simp] theorem aluCommand_pc (s : State) (op : AluOp) : (s.aluCommand op).pc = s.pc := rfl
@[simp] theorem aluCommand_ir (s : State) (op : AluOp) : (s.aluCommand op).ir = s.ir := rfl
@[simp] theorem aluCommand_flags (s : State) (op : AluOp) : (s.aluCommand op).flags = s.flags := rfl
@[simp] theorem aluCommand_mem (s : State) (op : AluOp) : (s.aluCommand op).mem = s.mem := rfl
@[simp] theorem aluCommand_status (s : State) (op : AluOp) : (s.aluCommand op).status = s.status := rfl
@[simp] theorem aluCommand_extbus (s : State) (op : AluOp) : (s.aluCommand op).extbus = s.extbus := rfl
@[simp] theorem aluCommand_intbus1 (s : State) (op : AluOp) : (s.aluCommand op).intbus1 = s.intbus1 := rfl
@[simp] theorem aluCommand_intbus2 (s : State) (op : AluOp) : (s.aluCommand op).intbus2 = s.intbus2 := rfl
@[simp] theorem aluCommand_slot0 (s : State) (op : AluOp) : (s.aluCommand op).slot0 = s.slot0 := rfl
@[simp] theorem aluCommand_sel (s : State) (op : AluOp) : (s.aluCommand op).sel = s.sel := rfl
@[simp] theorem aluCommand_latch (s : State) (op : AluOp) : (s.aluCommand op).latch = s.latch := rfl
@[simp] theorem aluCommand_phase (s : State) (op : AluOp) : (s.aluCommand op).phase = s.phase := rfl
@[simp] theorem aluCommand_freeCount (s : State) (op : AluOp) : (s.aluCommand op).freeCount = s.freeCount := rfl
@[simp] theorem aluCommand_slot1 (s : State) (op : AluOp) : (s.aluCommand op).slot1 = aluResult s.params.xlen op s.slot0 s.slot1 := rfl
@[simp] theorem aluCommand_aluop (s : State) (op : AluOp) : (s.aluCommand op).aluop = op := rfl
@[simp] theorem aluCommand_arch (s : State) (op : AluOp) : (s.aluCommand op).arch = s.arch := rfl

/-! ### Flag derivation -/

@[simp] theorem deriveFlags_params (s : State) (b : Bus) : (s.deriveFlags b).params = s.params := rfl
@[simp] theorem deriveFlags_gpr (s : State) (b : Bus) : (s.deriveFlags b).gpr = s.gpr := rfl
@[simp] theorem deriveFlags_pc (s : State) (b : Bus) : (s.deriveFlags b).pc = s.pc := rfl
@[simp] theorem deriveFlags_ir (s : State) (b : Bus) : (s.deriveFlags b).ir = s.ir := rfl
@[simp] theorem deriveFlags_mem (s : State) (b : Bus) : (s.deriveFlags b).mem = s.mem := rfl
@[simp] theorem deriveFlags_status (s : State) (b : Bus) : (s.deriveFlags b).status = s.status := rfl
@[simp] theorem deriveFlags_extbus (s : State) (b : Bus) : (s.deriveFlags b).extbus = s.extbus := rfl
@[simp] theorem deriveFlags_intbus1 (s : State) (b : Bus) : (s.deriveFlags b).intbus1 = s.intbus1 := rfl
@[simp] theorem deriveFlags_intbus2 (s : State) (b : Bus) : (s.deriveFlags b).intbus2 = s.intbus2 := rfl
@[simp] theorem deriveFlags_slot0 (s : State) (b : Bus) : (s.deriveFlags b).slot0 = s.slot0 := rfl
@[simp] theorem deriveFlags_slot1 (s : State) (b : Bus) : (s.deriveFlags b).slot1 = s.slot1 := rfl
@[simp] theorem deriveFlags_aluop (s : State) (b : Bus) : (s.deriveFlags b).aluop = s.aluop := rfl
@[simp] theorem deriveFlags_sel (s : State) (b : Bus) : (s.deriveFlags b).sel = s.sel := rfl
@[simp] theorem deriveFlags_latch (s : State) (b : Bus) : (s.deriveFlags b).latch = s.latch := rfl
@[simp] theorem deriveFlags_phase (s : State) (b : Bus) : (s.deriveFlags b).phase = s.phase := rfl
@[simp] theorem deriveFlags_freeCount (s : State) (b : Bus) : (s.deriveFlags b).freeCount = s.freeCount := rfl
@[simp] theorem deriveFlags_flags (s : State) (b : Bus) : (s.deriveFlags b).flags = flagsOf s.params (s.busGet b) := rfl

/-! ### Instruction boundary -/

@[simp] theorem forgetTransients_params (s : State) : (s.forgetTransients).params = s.params := rfl
@[simp] theorem forgetTransients_gpr (s : State) : (s.forgetTransients).gpr = s.gpr := rfl
@[simp] theorem forgetTransients_pc (s : State) : (s.forgetTransients).pc = s.pc := rfl
@[simp] theorem forgetTransients_flags (s : State) : (s.forgetTransients).flags = s.flags := rfl
@[simp] theorem forgetTransients_mem (s : State) : (s.forgetTransients).mem = s.mem := rfl
@[simp] theorem forgetTransients_status (s : State) : (s.forgetTransients).status = s.status := rfl
@[simp] theorem forgetTransients_phase (s : State) : (s.forgetTransients).phase = s.phase := rfl
@[simp] theorem forgetTransients_freeCount (s : State) : s.forgetTransients.freeCount = s.freeCount + 1 := rfl
@[simp] theorem forgetTransients_arch (s : State) : s.forgetTransients.arch = s.arch := rfl

/-! ### Events -/

@[simp] theorem raiseFault_params (s : State) (f : Fault) : (s.raiseFault f).params = s.params := rfl
@[simp] theorem raiseFault_gpr (s : State) (f : Fault) : (s.raiseFault f).gpr = s.gpr := rfl
@[simp] theorem raiseFault_pc (s : State) (f : Fault) : (s.raiseFault f).pc = s.pc := rfl
@[simp] theorem raiseFault_flags (s : State) (f : Fault) : (s.raiseFault f).flags = s.flags := rfl
@[simp] theorem raiseFault_mem (s : State) (f : Fault) : (s.raiseFault f).mem = s.mem := rfl
@[simp] theorem raiseFault_phase (s : State) (f : Fault) : (s.raiseFault f).phase = s.phase := rfl
@[simp] theorem raiseFault_status (s : State) (f : Fault) : (s.raiseFault f).status = .fault f := rfl
@[simp] theorem raiseFault_freeCount (s : State) (f : Fault) : (s.raiseFault f).freeCount = s.freeCount + 1 := rfl
@[simp] theorem raiseFault_arch (s : State) (f : Fault) : (s.raiseFault f).arch = { s.arch with status := .fault f } := rfl

/-! ### Halt -/

@[simp] theorem halt_params (s : State) : (s.halt).params = s.params := rfl
@[simp] theorem halt_gpr (s : State) : (s.halt).gpr = s.gpr := rfl
@[simp] theorem halt_pc (s : State) : (s.halt).pc = s.pc := rfl
@[simp] theorem halt_ir (s : State) : (s.halt).ir = s.ir := rfl
@[simp] theorem halt_flags (s : State) : (s.halt).flags = s.flags := rfl
@[simp] theorem halt_mem (s : State) : (s.halt).mem = s.mem := rfl
@[simp] theorem halt_extbus (s : State) : (s.halt).extbus = s.extbus := rfl
@[simp] theorem halt_intbus1 (s : State) : (s.halt).intbus1 = s.intbus1 := rfl
@[simp] theorem halt_intbus2 (s : State) : (s.halt).intbus2 = s.intbus2 := rfl
@[simp] theorem halt_slot0 (s : State) : (s.halt).slot0 = s.slot0 := rfl
@[simp] theorem halt_slot1 (s : State) : (s.halt).slot1 = s.slot1 := rfl
@[simp] theorem halt_aluop (s : State) : (s.halt).aluop = s.aluop := rfl
@[simp] theorem halt_sel (s : State) : (s.halt).sel = s.sel := rfl
@[simp] theorem halt_latch (s : State) : (s.halt).latch = s.latch := rfl
@[simp] theorem halt_phase (s : State) : (s.halt).phase = s.phase := rfl
@[simp] theorem halt_freeCount (s : State) : (s.halt).freeCount = s.freeCount := rfl
@[simp] theorem halt_status (s : State) : s.halt.status = .halted := rfl
@[simp] theorem halt_arch (s : State) : s.halt.arch = { s.arch with status := .halted } := rfl

/-! ### Open results -/

@[simp] theorem openFlags_params (s : State) : (s.openFlags).params = s.params := rfl
@[simp] theorem openFlags_gpr (s : State) : (s.openFlags).gpr = s.gpr := rfl
@[simp] theorem openFlags_pc (s : State) : (s.openFlags).pc = s.pc := rfl
@[simp] theorem openFlags_ir (s : State) : (s.openFlags).ir = s.ir := rfl
@[simp] theorem openFlags_mem (s : State) : (s.openFlags).mem = s.mem := rfl
@[simp] theorem openFlags_status (s : State) : (s.openFlags).status = s.status := rfl
@[simp] theorem openFlags_extbus (s : State) : (s.openFlags).extbus = s.extbus := rfl
@[simp] theorem openFlags_intbus1 (s : State) : (s.openFlags).intbus1 = s.intbus1 := rfl
@[simp] theorem openFlags_intbus2 (s : State) : (s.openFlags).intbus2 = s.intbus2 := rfl
@[simp] theorem openFlags_slot0 (s : State) : (s.openFlags).slot0 = s.slot0 := rfl
@[simp] theorem openFlags_slot1 (s : State) : (s.openFlags).slot1 = s.slot1 := rfl
@[simp] theorem openFlags_aluop (s : State) : (s.openFlags).aluop = s.aluop := rfl
@[simp] theorem openFlags_sel (s : State) : (s.openFlags).sel = s.sel := rfl
@[simp] theorem openFlags_latch (s : State) : (s.openFlags).latch = s.latch := rfl
@[simp] theorem openFlags_phase (s : State) : (s.openFlags).phase = s.phase := rfl
@[simp] theorem openFlags_freeCount (s : State) : (s.openFlags).freeCount = s.freeCount := rfl

/-! ### Open branch -/

@[simp] theorem openBranch_params (s : State) (t n : Int) : (s.openBranch t n).params = s.params := rfl
@[simp] theorem openBranch_gpr (s : State) (t n : Int) : (s.openBranch t n).gpr = s.gpr := rfl
@[simp] theorem openBranch_ir (s : State) (t n : Int) : (s.openBranch t n).ir = s.ir := rfl
@[simp] theorem openBranch_flags (s : State) (t n : Int) : (s.openBranch t n).flags = s.flags := rfl
@[simp] theorem openBranch_mem (s : State) (t n : Int) : (s.openBranch t n).mem = s.mem := rfl
@[simp] theorem openBranch_status (s : State) (t n : Int) : (s.openBranch t n).status = s.status := rfl
@[simp] theorem openBranch_extbus (s : State) (t n : Int) : (s.openBranch t n).extbus = s.extbus := rfl
@[simp] theorem openBranch_intbus1 (s : State) (t n : Int) : (s.openBranch t n).intbus1 = s.intbus1 := rfl
@[simp] theorem openBranch_intbus2 (s : State) (t n : Int) : (s.openBranch t n).intbus2 = s.intbus2 := rfl
@[simp] theorem openBranch_slot0 (s : State) (t n : Int) : (s.openBranch t n).slot0 = s.slot0 := rfl
@[simp] theorem openBranch_slot1 (s : State) (t n : Int) : (s.openBranch t n).slot1 = s.slot1 := rfl
@[simp] theorem openBranch_aluop (s : State) (t n : Int) : (s.openBranch t n).aluop = s.aluop := rfl
@[simp] theorem openBranch_sel (s : State) (t n : Int) : (s.openBranch t n).sel = s.sel := rfl
@[simp] theorem openBranch_latch (s : State) (t n : Int) : (s.openBranch t n).latch = s.latch := rfl
@[simp] theorem openBranch_phase (s : State) (t n : Int) : (s.openBranch t n).phase = s.phase := rfl
@[simp] theorem openBranch_freeCount (s : State) (t n : Int) : (s.openBranch t n).freeCount = s.freeCount := rfl

/-! ### Loading -/

@[simp] theorem loadObject_params (s : State) (object : List Int) : (s.loadObject object).params = s.params := rfl
@[simp] theorem loadObject_gpr (s : State) (object : List Int) : (s.loadObject object).gpr = s.gpr := rfl
@[simp] theorem loadObject_pc (s : State) (object : List Int) : (s.loadObject object).pc = s.pc := rfl
@[simp] theorem loadObject_ir (s : State) (object : List Int) : (s.loadObject object).ir = s.ir := rfl
@[simp] theorem loadObject_flags (s : State) (object : List Int) : (s.loadObject object).flags = s.flags := rfl
@[simp] theorem loadObject_status (s : State) (object : List Int) : (s.loadObject object).status = s.status := rfl
@[simp] theorem loadObject_extbus (s : State) (object : List Int) : (s.loadObject object).extbus = s.extbus := rfl
@[simp] theorem loadObject_intbus1 (s : State) (object : List Int) : (s.loadObject object).intbus1 = s.intbus1 := rfl
@[simp] theorem loadObject_intbus2 (s : State) (object : List Int) : (s.loadObject object).intbus2 = s.intbus2 := rfl
@[simp] theorem loadObject_slot0 (s : State) (object : List Int) : (s.loadObject object).slot0 = s.slot0 := rfl
@[simp] theorem loadObject_slot1 (s : State) (object : List Int) : (s.loadObject object).slot1 = s.slot1 := rfl
@[simp] theorem loadObject_aluop (s : State) (object : List Int) : (s.loadObject object).aluop = s.aluop := rfl
@[simp] theorem loadObject_sel (s : State) (object : List Int) : (s.loadObject object).sel = s.sel := rfl
@[simp] theorem loadObject_latch (s : State) (object : List Int) : (s.loadObject object).latch = s.latch := rfl
@[simp] theorem loadObject_phase (s : State) (object : List Int) : (s.loadObject object).phase = s.phase := rfl
@[simp] theorem loadObject_freeCount (s : State) (object : List Int) : (s.loadObject object).freeCount = s.freeCount := rfl

/-! ### Words -/

/-- What `State.allWords` says, place by place (00_scope R9). -/
theorem allWords_iff (s : State) : s.allWords = true ↔
    (∀ v ∈ s.gpr, isWord s.params.xlen v = true) ∧ isWord s.params.xlen s.pc = true ∧
      isWord s.params.xlen s.ir = true ∧ isWord s.params.xlen s.extbus = true ∧
      isWord s.params.xlen s.intbus1 = true ∧ isWord s.params.xlen s.intbus2 = true ∧
      isWord s.params.xlen s.slot0 = true ∧ isWord s.params.xlen s.slot1 = true ∧
      isWord s.params.xlen s.latch = true ∧ ∀ c ∈ s.mem, isWord s.params.xlen c.2 = true := by
  simp [State.allWords]

/-! ### The architectural view -/

@[simp] theorem arch_params (s : State) : s.arch.params = s.params := rfl
@[simp] theorem arch_gpr (s : State) : s.arch.gpr = s.gpr := rfl
@[simp] theorem arch_pc (s : State) : s.arch.pc = s.pc := rfl
@[simp] theorem arch_flags (s : State) : s.arch.flags = s.flags := rfl
@[simp] theorem arch_mem (s : State) : s.arch.mem = s.mem := rfl
@[simp] theorem arch_status (s : State) : s.arch.status = s.status := rfl

end Sys2Proof.Machine
end

