-- ==== Sys2Proof/Laws/Operations.lean ====
section
/-! SUPPORT. What each transaction and each operand protocol can do, said once: every later proof
about a microprogram cites these instead of unfolding the transactions. -/

namespace Sys2Proof.Machine

open Sys2Proof.Config

/-! ### Registers and flags -/

theorem regOfId_gpr {P : Params} {i : Nat} (h : i < P.numGpr) : regOfId P i = some (.gpr i) := by
  rw [regOfId, if_neg (by omega), if_pos (by omega), Int.toNat_natCast]

theorem regOfId_special (P : Params) : regOfId P P.idPc = some .pc ∧ regOfId P P.idIr = some .ir ∧
    regOfId P P.idFlags = some .flags := by
  simp only [regOfId, Params.idPc, Params.idIr, Params.idFlags, Nat.cast_add, Nat.cast_one, Nat.cast_ofNat]
  refine ⟨?_, ?_, ?_⟩ <;> split_ifs <;> first | rfl | omega

/-- What a register id can name (10_state R30). -/
theorem regOfId_cases {P : Params} {v : Int} {r : Reg} (h : regOfId P v = some r) :
    (∃ i, i < P.numGpr ∧ v = i ∧ r = .gpr i) ∨ (v = P.idPc ∧ r = .pc) ∨ (v = P.idIr ∧ r = .ir) ∨
      (v = P.idFlags ∧ r = .flags) := by
  unfold regOfId at h
  split_ifs at h <;> simp only [Option.some.injEq] at h
  · exact .inl ⟨v.toNat, by omega, by omega, h.symm⟩
  · exact .inr (.inl ⟨‹_›, h.symm⟩)
  · exact .inr (.inr (.inl ⟨‹_›, h.symm⟩))
  · exact .inr (.inr (.inr ⟨‹_›, h.symm⟩))

theorem namesSpecial_gpr {P : Params} {i : Nat} (h : i < P.numGpr) : namesSpecial P i = false := by
  simp [namesSpecial, regOfId_gpr h]

/-- An id names a register exactly when it is valid (30_encoding R92 (a)). -/
theorem regOfId_isSome_iff {P : Params} {v : Int} : (regOfId P v).isSome = true ↔ registerIdValid P v = true := by
  simp only [regOfId, registerIdValid, Params.numReg, Params.idPc, Params.idIr, Params.idFlags, Nat.cast_add,
    Nat.cast_one, Nat.cast_ofNat, Bool.and_eq_true, decide_eq_true_eq]
  split_ifs <;> simp <;> omega

theorem regOfId_eq_none_iff {P : Params} {v : Int} : regOfId P v = none ↔ v < 0 ∨ P.numReg ≤ v := by
  rw [← Option.not_isSome_iff_eq_none, regOfId_isSome_iff]
  simp only [registerIdValid, Bool.and_eq_true, decide_eq_true_eq]
  omega

/-- A register the selector reaches without naming PC, IR or Flags is general-purpose. -/
theorem gpr_of_not_special {P : Params} {v : Int} {r : Reg} (hr : regOfId P v = some r)
    (hs : namesSpecial P v = false) : ∃ i, i < P.numGpr ∧ r = .gpr i := by
  obtain ⟨i, hi, -, rfl⟩ | ⟨-, rfl⟩ | ⟨-, rfl⟩ | ⟨-, rfl⟩ := regOfId_cases hr
  · exact ⟨i, hi, rfl⟩
  all_goals simp [namesSpecial, hr] at hs

@[simp] theorem getReg_gpr (s : State) (i : Nat) : s.getReg (.gpr i) = s.gpr.getD i 0 := rfl
@[simp] theorem getReg_pc (s : State) : s.getReg .pc = s.pc := rfl
@[simp] theorem getReg_ir (s : State) : s.getReg .ir = s.ir := rfl
@[simp] theorem getReg_flags (s : State) : s.getReg .flags = flagsToWord s.flags := rfl

/-- `SetFlags(r)` gives one of three values (10_state R29). -/
theorem flagsOf_cases (P : Params) (r : Int) :
    (r = 0 ∧ flagsOf P r = 1#3 <<< P.flagZ.val) ∨ (0 < r ∧ flagsOf P r = 1#3 <<< P.flagNZ.val) ∨
      (r < 0 ∧ flagsOf P r = (1#3 <<< P.flagN.val ||| 1#3 <<< P.flagNZ.val)) := by
  rcases lt_trichotomy r 0 with h | rfl | h
  · refine .inr (.inr ⟨h, ?_⟩)
    simp [flagsOf, flagBit, h, h.ne]
  · exact .inl ⟨rfl, by simp [flagsOf, flagBit]⟩
  · refine .inr (.inl ⟨h, ?_⟩)
    simp [flagsOf, flagBit, h.ne', not_lt.2 h.le]

/-! ### Transactions -/

theorem runTransactions_append (xs ys : List Transaction) (s : State) :
    runTransactions (xs ++ ys) s =
      match runTransactions xs s with
      | .ok s' => runTransactions ys s'
      | .error e => .error e := by
  induction xs generalizing s with
  | nil => rfl
  | cons x rest ih =>
    simp only [List.cons_append, runTransactions]
    cases x.apply s with
    | ok s' => exact ih s'
    | error e => rfl

@[simp] theorem runTransactions_nil (s : State) : runTransactions [] s = .ok s := rfl

section
variable (s : State) (rest : List Transaction)

@[simp] theorem run_regRead (r : Reg) :
    runTransactions (.regRead r :: rest) s = runTransactions rest { s with extbus := s.getReg r } := rfl

@[simp] theorem run_regStore (r : Reg) :
    runTransactions (.regStore r :: rest) s = runTransactions rest (s.setReg r s.extbus) := rfl

@[simp] theorem run_irInternalRead :
    runTransactions (.regInternalRead .ir :: rest) s = runTransactions rest { s with intbus2 := s.ir } := rfl

@[simp] theorem run_irInternalStore :
    runTransactions (.regInternalStore .ir :: rest) s = runTransactions rest { s with ir := s.intbus2 } := rfl

@[simp] theorem run_rfRead :
    runTransactions (.rfRead :: rest) s = runTransactions rest { s with extbus := s.getReg s.sel } := rfl

@[simp] theorem run_rfStore :
    runTransactions (.rfStore :: rest) s = runTransactions rest (s.setReg s.sel s.extbus) := rfl

theorem run_rfInternalRead :
    runTransactions (.rfInternalRead :: rest) s =
      runTransactions rest (s.busPut (internalBus s.sel) (s.getReg s.sel)) := rfl

theorem run_rfInternalStore :
    runTransactions (.rfInternalStore :: rest) s =
      runTransactions rest (s.setReg s.sel (s.busGet (internalBus s.sel))) := rfl

theorem run_rfInternalRead_gpr {i : Nat} (h : s.sel = .gpr i) :
    runTransactions (.rfInternalRead :: rest) s = runTransactions rest { s with intbus1 := s.gpr.getD i 0 } := by
  have e : s.busPut (internalBus s.sel) (s.getReg s.sel) = s.busPut .int1 (s.getReg (.gpr i)) := by rw [h]; rfl
  exact congrArg (runTransactions rest) e

theorem run_rfInternalStore_gpr {i : Nat} (h : s.sel = .gpr i) :
    runTransactions (.rfInternalStore :: rest) s =
      runTransactions rest { s with gpr := s.gpr.set i s.intbus1 } := by
  have e : s.setReg s.sel (s.busGet (internalBus s.sel)) = s.setReg (.gpr i) (s.busGet .int1) := by rw [h]; rfl
  exact congrArg (runTransactions rest) e

@[simp] theorem run_aluStore_slot0 :
    runTransactions (.aluStore .slot0 :: rest) s = runTransactions rest { s with slot0 := s.intbus1 } := rfl

@[simp] theorem run_aluStore_slot1 :
    runTransactions (.aluStore .slot1 :: rest) s = runTransactions rest { s with slot1 := s.intbus1 } := rfl

@[simp] theorem run_aluInternalStore_slot0 :
    runTransactions (.aluInternalStore .slot0 :: rest) s = runTransactions rest { s with slot0 := s.intbus2 } := rfl

@[simp] theorem run_aluInternalStore_slot1 :
    runTransactions (.aluInternalStore .slot1 :: rest) s = runTransactions rest { s with slot1 := s.intbus2 } := rfl

@[simp] theorem run_aluRead_slot0 :
    runTransactions (.aluRead .slot0 :: rest) s = runTransactions rest { s with intbus1 := s.slot0 } := rfl

@[simp] theorem run_aluRead_slot1 :
    runTransactions (.aluRead .slot1 :: rest) s = runTransactions rest { s with intbus1 := s.slot1 } := rfl

@[simp] theorem run_aluInternalRead_slot0 :
    runTransactions (.aluInternalRead .slot0 :: rest) s = runTransactions rest { s with intbus2 := s.slot0 } := rfl

@[simp] theorem run_aluInternalRead_slot1 :
    runTransactions (.aluInternalRead .slot1 :: rest) s = runTransactions rest { s with intbus2 := s.slot1 } := rfl

@[simp] theorem run_aluCommand (op : AluOp) :
    runTransactions (.aluCommand op :: rest) s =
      runTransactions rest { s with slot1 := aluResult s.params.xlen op s.slot0 s.slot1, aluop := op } := rfl

@[simp] theorem run_deriveFlags (b : Bus) :
    runTransactions (.deriveFlags b :: rest) s = runTransactions rest { s with flags := flagsOf s.params (s.busGet b) } := rfl

theorem run_memRead :
    runTransactions (.memRead :: rest) s =
      if inRange s.params s.extbus then runTransactions rest { s with extbus := readCell s.mem s.extbus.toNat }
      else .error (.addressOutOfRange s.extbus, s) := by
  by_cases h : inRange s.params s.extbus <;> simp [runTransactions, Transaction.apply, State.memoryRead, State.busGet, State.busPut, h]

theorem run_memStore_idle (h : s.phase = .idle) :
    runTransactions (.memStore :: rest) s =
      if inRange s.params s.extbus then runTransactions rest { s with latch := s.extbus, phase := .latched }
      else .error (.addressOutOfRange s.extbus, s) := by
  by_cases h' : inRange s.params s.extbus <;> simp [runTransactions, Transaction.apply, State.memoryStore, State.busGet, h, h']

theorem run_memStore_latched (h : s.phase = .latched) :
    runTransactions (.memStore :: rest) s =
      runTransactions rest { s with mem := writeCell s.mem s.latch.toNat s.extbus, phase := .idle } := by
  simp [runTransactions, Transaction.apply, State.memoryStore, State.busGet, h]

end

/-- A transaction that raises a fault changes nothing (60_exceptions R277). -/
theorem apply_error {t : Transaction} {s s' : State} {f : Fault} (h : t.apply s = .error (f, s')) : s' = s := by
  cases t <;> simp only [Transaction.apply, State.selectorLoad, State.memoryRead, State.instructionCellRead,
    State.memoryStore, reduceCtorEq] at h
  all_goals (split at h <;> first | cases h; rfl | (split at h <;> cases h; rfl) | cases h)

/-- No transaction changes the parameters of the machine (00_scope R7). -/
theorem apply_params {t : Transaction} {s s' : State} (h : t.apply s = .ok s') : s'.params = s.params := by
  cases t <;> simp only [Transaction.apply, State.selectorLoad, State.memoryRead, State.instructionCellRead,
    State.memoryStore, Except.ok.injEq] at h
  case selLoad | memRead | cellRead | memStore =>
    split at h <;> first | cases h; simp | (split at h <;> cases h; rfl) | cases h
  all_goals
    subst h
    simp [State.registerRead, State.registerStore, State.registerInternalRead, State.registerInternalStore,
      State.aluStore, State.aluInternalStore, State.aluRead, State.aluInternalRead]

/-- Nor does a run of them, whether it completes or faults. -/
theorem runTransactions_params {ts : List Transaction} {s : State} :
    (∀ s', runTransactions ts s = .ok s' → s'.params = s.params) ∧
      ∀ f s', runTransactions ts s = .error (f, s') → s'.params = s.params := by
  induction ts generalizing s with
  | nil =>
    refine ⟨fun s' h => ?_, fun f s' h => ?_⟩
    · cases h; rfl
    · simp at h
  | cons t rest ih =>
    rw [runTransactions]
    cases e : t.apply s with
    | ok s₁ => simpa only [apply_params e] using @ih s₁
    | error e₁ =>
      refine ⟨fun s' h => ?_, fun f s' h => ?_⟩
      · simp at h
      · simp only [Except.error.injEq] at h
        rw [apply_error (e.trans (congrArg _ h))]

/-! ### The program-counter advance and the operand protocols -/

/-- What `PCADV` leaves (40_micro_operations R131). -/
def State.pcAdvanced (s : State) : State :=
  { s with pc := s.toWord (s.pc + 1), slot1 := s.toWord (s.pc + 1), intbus2 := s.toWord (s.pc + 1), aluop := .inc }

theorem run_pcadv_append (s : State) (rest : List Transaction) :
    runTransactions (pcadv ++ rest) s = runTransactions rest s.pcAdvanced := rfl

theorem run_pcadv (s : State) : runTransactions pcadv s = .ok s.pcAdvanced := rfl

/-- A transaction that reads the cell at address `a` and finds `c` there: `mem.read()` where memory
holds `c`, or the read of a decoded instruction's own cell. -/
def ReadsAs (t : Transaction) (m : Memory) (a c : Int) : Prop :=
  t = .cellRead c ∨ (t = .memRead ∧ readCell m a.toNat = c)

theorem readsAs_cellRead (m : Memory) (a c : Int) : ReadsAs (.cellRead c) m a c := .inl rfl

theorem readsAs_memRead (m : Memory) (a : Int) : ReadsAs .memRead m a (readCell m a.toNat) := .inr ⟨rfl, rfl⟩

/-- `CELL` (R132). -/
theorem run_cellFetch {t : Transaction} {s : State} {c : Int} (h : ReadsAs t s.mem s.pc c)
    (rest : List Transaction) :
    runTransactions (cellFetch t ++ rest) s =
      if inRange s.params s.pc then runTransactions rest { s with extbus := c }
      else .error (.addressOutOfRange s.pc, { s with extbus := s.pc }) := by
  by_cases hr : inRange s.params s.pc <;> rcases h with rfl | ⟨rfl, hc⟩
  all_goals simp [cellFetch, runTransactions, Transaction.apply, State.instructionCellRead, State.memoryRead,
    State.busGet, State.busPut, *]

/-- Fetch and Decode's bus transaction (R134, R135). -/
theorem run_fetchDecode {t : Transaction} {s : State} {c : Int} (h : ReadsAs t s.mem s.pc c) :
    runTransactions (fetchDecode t) s =
      if inRange s.params s.pc then .ok { s with extbus := c, ir := c, intbus2 := c }
      else .error (.addressOutOfRange s.pc, { s with extbus := s.pc }) := by
  rw [fetchDecode, run_cellFetch h]; rfl

/-- `Imm` or `Addr` operand (R133). -/
theorem run_immOperand {t : Transaction} {s : State} {c : Int} (h : ReadsAs t s.mem (s.toWord (s.pc + 1)) c)
    (rest : List Transaction) :
    runTransactions (immOperand t ++ rest) s =
      if inRange s.params (s.toWord (s.pc + 1)) then runTransactions rest { s.pcAdvanced with extbus := c }
      else .error (.addressOutOfRange (s.toWord (s.pc + 1)), { s.pcAdvanced with extbus := s.toWord (s.pc + 1) }) := by
  rw [immOperand, List.append_assoc, run_pcadv_append, run_cellFetch (s := s.pcAdvanced) h]; rfl

/-- `Reg` operand up to the selector load (R133, R128). -/
theorem run_regOperand {t : Transaction} {s : State} {c : Int} (h : ReadsAs t s.mem (s.toWord (s.pc + 1)) c)
    (rest : List Transaction) :
    runTransactions (regOperand t ++ rest) s =
      if inRange s.params (s.toWord (s.pc + 1)) then
        match regOfId s.params c with
        | some r => runTransactions rest { s.pcAdvanced with extbus := c, sel := r }
        | none => .error (.registerIdOutOfRange c, { s.pcAdvanced with extbus := c })
      else .error (.addressOutOfRange (s.toWord (s.pc + 1)), { s.pcAdvanced with extbus := s.toWord (s.pc + 1) }) := by
  have e : regOperand t ++ rest = immOperand t ++ (.selLoad :: rest) := by simp [regOperand, immOperand]
  rw [e, run_immOperand h]
  split
  · simp only [runTransactions, Transaction.apply, State.selectorLoad, State.busGet, State.pcAdvanced]
    cases regOfId s.params c <;> rfl
  · rfl

/-- `Mem` operand whose value is needed (R133). -/
theorem run_memSource {t : Transaction} {s : State} {c : Int} (h : ReadsAs t s.mem (s.toWord (s.pc + 1)) c)
    (rest : List Transaction) :
    runTransactions (memSource t ++ rest) s =
      if inRange s.params (s.toWord (s.pc + 1)) then
        if inRange s.params c then runTransactions rest { s.pcAdvanced with extbus := readCell s.mem c.toNat }
        else .error (.addressOutOfRange c, { s.pcAdvanced with extbus := c })
      else .error (.addressOutOfRange (s.toWord (s.pc + 1)), { s.pcAdvanced with extbus := s.toWord (s.pc + 1) }) := by
  have e : memSource t ++ rest = immOperand t ++ (.memRead :: rest) := by simp [memSource, immOperand]
  rw [e, run_immOperand h]
  split
  · rw [run_memRead]; rfl
  · rfl

/-- `Mem` destination: the address is checked and latched (R133, R127). -/
theorem run_memDestination {t : Transaction} {s : State} {c : Int} (h : ReadsAs t s.mem (s.toWord (s.pc + 1)) c)
    (hp : s.phase = .idle) (rest : List Transaction) :
    runTransactions (memDestination t ++ rest) s =
      if inRange s.params (s.toWord (s.pc + 1)) then
        if inRange s.params c then runTransactions rest { s.pcAdvanced with extbus := c, latch := c, phase := .latched }
        else .error (.addressOutOfRange c, { s.pcAdvanced with extbus := c })
      else .error (.addressOutOfRange (s.toWord (s.pc + 1)), { s.pcAdvanced with extbus := s.toWord (s.pc + 1) }) := by
  have e : memDestination t ++ rest = immOperand t ++ (.memStore :: rest) := by simp [memDestination, immOperand]
  rw [e, run_immOperand h]
  split
  · rw [run_memStore_idle _ _ (by exact hp)]; rfl
  · rfl

/-! ### The operand protocols on the cells of a decoded instruction -/

@[simp] theorem givenCells_apply (cells : List Int) (k : Nat) :
    givenCells cells k = .cellRead (cells.getD k 0) := rfl

theorem run_fetchDecode_given (c : Int) (s : State) :
    runTransactions (fetchDecode (.cellRead c)) s =
      if inRange s.params s.pc then .ok { s with extbus := c, ir := c, intbus2 := c }
      else .error (.addressOutOfRange s.pc, { s with extbus := s.pc }) :=
  run_fetchDecode (readsAs_cellRead s.mem s.pc c)

theorem run_immOperand_given (c : Int) (s : State) (rest : List Transaction) :
    runTransactions (immOperand (.cellRead c) ++ rest) s =
      if inRange s.params (s.toWord (s.pc + 1)) then runTransactions rest { s.pcAdvanced with extbus := c }
      else .error (.addressOutOfRange (s.toWord (s.pc + 1)), { s.pcAdvanced with extbus := s.toWord (s.pc + 1) }) :=
  run_immOperand (readsAs_cellRead s.mem (s.toWord (s.pc + 1)) c) rest

theorem run_immOperand_given_nil (c : Int) (s : State) :
    runTransactions (immOperand (.cellRead c)) s =
      if inRange s.params (s.toWord (s.pc + 1)) then .ok { s.pcAdvanced with extbus := c }
      else .error (.addressOutOfRange (s.toWord (s.pc + 1)), { s.pcAdvanced with extbus := s.toWord (s.pc + 1) }) := by
  rw [← List.append_nil (immOperand (.cellRead c)), run_immOperand_given]; rfl

theorem run_regOperand_given (c : Int) (s : State) (rest : List Transaction) :
    runTransactions (regOperand (.cellRead c) ++ rest) s =
      if inRange s.params (s.toWord (s.pc + 1)) then
        match regOfId s.params c with
        | some r => runTransactions rest { s.pcAdvanced with extbus := c, sel := r }
        | none => .error (.registerIdOutOfRange c, { s.pcAdvanced with extbus := c })
      else .error (.addressOutOfRange (s.toWord (s.pc + 1)), { s.pcAdvanced with extbus := s.toWord (s.pc + 1) }) :=
  run_regOperand (readsAs_cellRead s.mem (s.toWord (s.pc + 1)) c) rest

theorem run_memSource_given (c : Int) (s : State) (rest : List Transaction) :
    runTransactions (memSource (.cellRead c) ++ rest) s =
      if inRange s.params (s.toWord (s.pc + 1)) then
        if inRange s.params c then runTransactions rest { s.pcAdvanced with extbus := readCell s.mem c.toNat }
        else .error (.addressOutOfRange c, { s.pcAdvanced with extbus := c })
      else .error (.addressOutOfRange (s.toWord (s.pc + 1)), { s.pcAdvanced with extbus := s.toWord (s.pc + 1) }) :=
  run_memSource (readsAs_cellRead s.mem (s.toWord (s.pc + 1)) c) rest

theorem run_memDestination_given (c : Int) {s : State} (hp : s.phase = .idle) (rest : List Transaction) :
    runTransactions (memDestination (.cellRead c) ++ rest) s =
      if inRange s.params (s.toWord (s.pc + 1)) then
        if inRange s.params c then runTransactions rest { s.pcAdvanced with extbus := c, latch := c, phase := .latched }
        else .error (.addressOutOfRange c, { s.pcAdvanced with extbus := c })
      else .error (.addressOutOfRange (s.toWord (s.pc + 1)), { s.pcAdvanced with extbus := s.toWord (s.pc + 1) }) :=
  run_memDestination (readsAs_cellRead s.mem (s.toWord (s.pc + 1)) c) hp rest

/-! ### The outcome of a step -/

@[simp] theorem finishStep_ok (s : State) : finishStep (.ok s) = .next s.forgetTransients := rfl

@[simp] theorem finishStep_error (f : Fault) (s : State) : finishStep (.error (f, s)) = .next (s.raiseFault f) := rfl

/-- No step stops: every step has a next state (93 part 2: "There is no stuck case"). -/
theorem finishStep_next (r : Run) : ∃ t, finishStep r = .next t := by
  cases r with
  | ok s => exact ⟨_, rfl⟩
  | error e => exact ⟨_, rfl⟩

theorem haltStep_next (t : Transaction) (s : State) : ∃ u, haltStep t s = .next u := by
  unfold haltStep
  split <;> exact ⟨_, rfl⟩

end Sys2Proof.Machine
end

