-- ==== Sys2Proof/Laws/Coherent.lean ====
section
/-! SUPPORT. What every transaction keeps: within an instruction as at its boundary, every place of the
machine holds a word, the selector names a register, and memory is canonical (00_scope R9, 10_state R37,
R38). -/

namespace Sys2Proof.Machine

open Sys2Proof.Config

/-- The invariant between two transactions: `Invariant`, except that a store may be half done, and then its
latched address is one of memory (40_micro_operations R127). -/
structure Coherent (s : State) : Prop where
  params : s.params.valid = true
  registers : s.gpr.length = s.params.numGpr
  words : s.allWords = true
  selector : s.params.hasReg s.sel = true
  memory : s.mem.wf s.params.memSize = true
  latch : s.phase = .latched → inRange s.params s.latch = true

theorem Coherent.of_invariant {s : State} (h : Invariant s) : Coherent s :=
  ⟨h.params, h.registers, h.words, h.selector, h.memory, fun e => by rw [h.phase] at e; cases e⟩

/-- A cell holds a word. -/
theorem isWord_readCell {s : State} (h : Coherent s) (a : Nat) : isWord s.params.xlen (readCell s.mem a) = true := by
  have := ((allWords_iff s).1 h.words).2.2.2.2.2.2.2.2.2
  have z : isWord s.params.xlen 0 = true := Params.isWord_small h.params (by omega) (by omega)
  generalize s.mem = m at *
  induction m with
  | nil => exact z
  | cons c rest ih => 
    obtain ⟨k, v⟩ := c
    rw [readCell]; split
    · exact this (k, v) (by simp)
    · exact ih (fun c hc => this c (by simp [hc]))

/-- Writing a word into a memory of words. -/
theorem forall_isWord_writeCell {n : Nat} {m : Memory} (h : ∀ c ∈ m, isWord n c.2 = true) {v : Int} (hv : isWord n v = true)
    (a : Nat) : ∀ c ∈ writeCell m a v, isWord n c.2 = true := by
  induction m with
  | nil => intro c hc; simp only [writeCell, consCell] at hc; split at hc <;> simp at hc; subst hc; exact hv
  | cons c rest ih =>
    obtain ⟨k, w⟩ := c
    have hr : ∀ c ∈ rest, isWord n c.2 = true := fun c hc => h c (by simp [hc])
    intro c hc
    rw [writeCell] at hc
    unfold consCell at hc
    split at hc
    · split at hc
      · exact h c hc
      · rcases List.mem_cons.1 hc with rfl | hc; exact hv; exact h c hc
    · split at hc
      · split at hc
        · exact hr c hc
        · rcases List.mem_cons.1 hc with rfl | hc; exact hv; exact hr c hc
      · rcases List.mem_cons.1 hc with rfl | hc
        · exact h _ (by simp)
        · exact ih hr c hc

/-- Every register puts a word on a bus, the flags too (10_state R29). -/
theorem isWord_getReg {s : State} (h : Coherent s) (r : Reg) : isWord s.params.xlen (s.getReg r) = true := by
  obtain ⟨a, b, c, -⟩ := (allWords_iff s).1 h.words
  cases r with
  | gpr i => 
    simp only [State.getReg]
    rcases lt_or_ge i s.gpr.length with hl | hl
    · rw [List.getD_eq_getElem _ _ hl]; exact a _ (List.getElem_mem hl)
    · rw [List.getD_eq_default _ _ hl]; exact Params.isWord_small h.params (by omega) (by omega)
  | pc => exact b
  | ir => exact c
  | flags =>
    have := s.flags.isLt
    simp only [State.getReg, flagsToWord]
    exact Params.isWord_small h.params (by omega) (by omega)

/-- Putting a word on a bus. -/
theorem coherent_busPut {s : State} (h : Coherent s) (b : Bus) {v : Int}
    (hv : isWord s.params.xlen v = true) : Coherent (s.busPut b v) := by
  obtain ⟨a1, a2, a3, a4, a5, a6, a7, a8, a9, a10⟩ := (allWords_iff s).1 h.words
  refine ⟨by simpa using h.params, by simpa using h.registers, ?_, by simpa using h.selector,
    by simpa using h.memory, by simpa using h.latch⟩
  rw [allWords_iff]
  cases b <;> exact ⟨a1, a2, a3, by assumption, by assumption, by assumption, a7, a8, a9, a10⟩
theorem isWord_busGet {s : State} (h : Coherent s) (b : Bus) : isWord s.params.xlen (s.busGet b) = true := by
  obtain ⟨a1, a2, a3, a4, a5, a6, a7, a8, a9, a10⟩ := (allWords_iff s).1 h.words
  cases b <;> assumption

/-- Storing a word into a register. -/
theorem coherent_setReg {s : State} (h : Coherent s) (r : Reg) {v : Int}
    (hv : isWord s.params.xlen v = true) : Coherent (s.setReg r v) := by
  obtain ⟨a1, a2, a3, a4, a5, a6, a7, a8, a9, a10⟩ := (allWords_iff s).1 h.words
  refine ⟨by simpa using h.params, ?_, ?_, by simpa using h.selector,
    by simpa using h.memory, by simpa using h.latch⟩
  · cases r <;> simpa using h.registers
  · rw [allWords_iff]
    cases r
    · refine ⟨?_, a2, a3, a4, a5, a6, a7, a8, a9, a10⟩
      intro x hx
      simp only [setReg_gpr_gpr] at hx
      rcases List.mem_or_eq_of_mem_set hx with hx | rfl
      · exact a1 x hx
      · exact hv
    all_goals exact ⟨a1, by assumption, by assumption, a4, a5, a6, a7, a8, a9, a10⟩

/-- Loading a word into an ALU slot. -/
theorem coherent_setSlot {s : State} (h : Coherent s) (i : Slot) {v : Int}
    (hv : isWord s.params.xlen v = true) : Coherent (s.setSlot i v) := by
  obtain ⟨a1, a2, a3, a4, a5, a6, a7, a8, a9, a10⟩ := (allWords_iff s).1 h.words
  refine ⟨by simpa using h.params, by simpa using h.registers, ?_, by simpa using h.selector,
    by simpa using h.memory, by simpa using h.latch⟩
  rw [allWords_iff]
  cases i <;> exact ⟨a1, a2, a3, a4, a5, a6, by assumption, by assumption, a9, a10⟩
theorem isWord_getSlot {s : State} (h : Coherent s) (i : Slot) : isWord s.params.xlen (s.getSlot i) = true := by
  obtain ⟨a1, a2, a3, a4, a5, a6, a7, a8, a9, a10⟩ := (allWords_iff s).1 h.words
  cases i <;> assumption

/-- Every transaction keeps the machine coherent; the cells of a decoded instruction are words because
memory holds them. -/
theorem coherent_apply {t : Transaction} {s s' : State} (h : Coherent s)
    (hc : ∀ c, t = .cellRead c → isWord s.params.xlen c = true) (e : t.apply s = .ok s') : Coherent s' := by
  obtain ⟨a1, a2, a3, a4, a5, a6, a7, a8, a9, a10⟩ := (allWords_iff s).1 h.words
  have hx := Params.one_le_xlen h.params
  cases t <;> simp only [Transaction.apply, State.selectorLoad, State.memoryRead, State.instructionCellRead,
    State.memoryStore, Except.ok.injEq] at e
  case regRead r => subst e; exact coherent_busPut h _ (isWord_getReg h _)
  case regStore r => subst e; exact coherent_setReg h _ (isWord_busGet h _)
  case regInternalRead r => subst e; exact coherent_busPut h _ (isWord_getReg h _)
  case regInternalStore r => subst e; exact coherent_setReg h _ (isWord_busGet h _)
  case rfRead => subst e; exact coherent_busPut h _ (isWord_getReg h _)
  case rfStore => subst e; exact coherent_setReg h _ (isWord_busGet h _)
  case rfInternalRead => subst e; exact coherent_busPut h _ (isWord_getReg h _)
  case rfInternalStore => subst e; exact coherent_setReg h _ (isWord_busGet h _)
  case aluStore => subst e; exact coherent_setSlot h _ (isWord_busGet h _)
  case aluInternalStore => subst e; exact coherent_setSlot h _ (isWord_busGet h _)
  case aluRead => subst e; exact coherent_busPut h _ (isWord_getSlot h _)
  case aluInternalRead => subst e; exact coherent_busPut h _ (isWord_getSlot h _)
  case aluCommand op => 
    subst e
    refine ⟨h.params, h.registers, ?_, h.selector, h.memory, h.latch⟩
    rw [allWords_iff]
    refine ⟨a1, a2, a3, a4, a5, a6, a7, ?_, a9, a10⟩
    cases op <;> exact wrap_isWord hx _
  case deriveFlags => subst e; exact ⟨h.params, h.registers, h.words, h.selector, h.memory, h.latch⟩
  case selLoad =>
    split at e
    · rename_i r hr
      cases e
      refine ⟨h.params, h.registers, h.words, ?_, h.memory, h.latch⟩
      obtain ⟨i, hi, -, rfl⟩ | ⟨-, rfl⟩ | ⟨-, rfl⟩ | ⟨-, rfl⟩ := regOfId_cases hr
      · exact decide_eq_true hi
      all_goals rfl
    · cases e
  case memRead => split at e <;> cases e; exact coherent_busPut h _ (isWord_readCell h _)
  case cellRead c => split at e <;> cases e; exact coherent_busPut h _ (hc c rfl)
  case memStore =>
    split at e
    · split at e
      · cases e
        rename_i hr
        refine ⟨h.params, h.registers, ?_, h.selector, h.memory, fun _ => hr⟩
        rw [allWords_iff]; exact ⟨a1, a2, a3, a4, a5, a6, a7, a8, a4, a10⟩
      · cases e
    · cases e
      rename_i hp
      refine ⟨h.params, h.registers, ?_, h.selector, writeCell_wf h.memory (toNat_lt_of_inRange (h.latch hp)) _,
        fun hh => by cases hh⟩
      rw [allWords_iff]; exact ⟨a1, a2, a3, a4, a5, a6, a7, a8, a9, forall_isWord_writeCell a10 a4 _⟩

/-- At an instruction boundary (10_state R40) a coherent machine with no store half done meets the
invariant, whatever the free values are. -/
theorem invariant_forgetTransients {s : State} (h : Coherent s) (hp : s.phase = .idle) :
    Invariant s.forgetTransients := by
  obtain ⟨a1, a2, a3, a4, a5, a6, a7, a8, a9, a10⟩ := (allWords_iff s).1 h.words
  have hx := Params.one_le_xlen h.params
  refine ⟨h.params, h.registers, ?_, ?_, h.memory, hp⟩
  · rw [allWords_iff]
    exact ⟨a1, a2, wrap_isWord hx _, wrap_isWord hx _, wrap_isWord hx _, wrap_isWord hx _, wrap_isWord hx _,
      wrap_isWord hx _, wrap_isWord hx _, a10⟩
  · simp only [State.forgetTransients, State.openSelector]
    have : 0 < s.params.numGpr := by have := ((s.params.valid_iff).1 h.params).2.2.2.1; omega
    cases freeSelector s.freeCount with
    | gpr i => exact decide_eq_true (Nat.mod_lt _ this)
    | _ => rfl

end Sys2Proof.Machine
end

