-- ==== Sys2Proof/Laws/PerInstr.lean ====
section
/-! SUPPORT. Statements about every instruction as syntax, one lemma for each constructor. -/

namespace Sys2Proof.Laws

open Sys2Proof

/-- The number of operand cells is that of the instruction's format (30_encoding R91): the encoding is
the opcode cell and then exactly the operand cells. -/
def FormatLength.Statement (i : Instr) : Prop := (encode i).tail = i.operands.map Prod.snd

theorem FormatLength.addRegReg (u v : Int) : FormatLength.Statement (.addRegReg u v) := rfl
theorem FormatLength.addMemReg (u v : Int) : FormatLength.Statement (.addMemReg u v) := rfl
theorem FormatLength.addRegMem (u v : Int) : FormatLength.Statement (.addRegMem u v) := rfl
theorem FormatLength.addImmMem (u v : Int) : FormatLength.Statement (.addImmMem u v) := rfl
theorem FormatLength.subRegReg (u v : Int) : FormatLength.Statement (.subRegReg u v) := rfl
theorem FormatLength.subMemReg (u v : Int) : FormatLength.Statement (.subMemReg u v) := rfl
theorem FormatLength.subRegMem (u v : Int) : FormatLength.Statement (.subRegMem u v) := rfl
theorem FormatLength.subImmMem (u v : Int) : FormatLength.Statement (.subImmMem u v) := rfl
theorem FormatLength.reserved8 : FormatLength.Statement (.reserved8) := rfl
theorem FormatLength.reserved9 : FormatLength.Statement (.reserved9) := rfl
theorem FormatLength.reserved10 : FormatLength.Statement (.reserved10) := rfl
theorem FormatLength.moveMemReg (u v : Int) : FormatLength.Statement (.moveMemReg u v) := rfl
theorem FormatLength.moveRegMem (u v : Int) : FormatLength.Statement (.moveRegMem u v) := rfl
theorem FormatLength.moveRegReg (u v : Int) : FormatLength.Statement (.moveRegReg u v) := rfl
theorem FormatLength.moveImmReg (u v : Int) : FormatLength.Statement (.moveImmReg u v) := rfl
theorem FormatLength.incReg (u : Int) : FormatLength.Statement (.incReg u) := rfl
theorem FormatLength.incMem (u : Int) : FormatLength.Statement (.incMem u) := rfl
theorem FormatLength.jmp (u : Int) : FormatLength.Statement (.jmp u) := rfl
theorem FormatLength.jn (u : Int) : FormatLength.Statement (.jn u) := rfl
theorem FormatLength.jz (u : Int) : FormatLength.Statement (.jz u) := rfl
theorem FormatLength.jnz (u : Int) : FormatLength.Statement (.jnz u) := rfl
theorem FormatLength.jeq (u v w : Int) : FormatLength.Statement (.jeq u v w) := rfl
theorem FormatLength.jgt (u v w : Int) : FormatLength.Statement (.jgt u v w) := rfl
theorem FormatLength.jlw (u v w : Int) : FormatLength.Statement (.jlw u v w) := rfl
theorem FormatLength.ldi (u v : Int) : FormatLength.Statement (.ldi u v) := rfl

end Sys2Proof.Laws
end

