-- ==== Sys2Proof/Tests/Slice0.lean ====
section
/-! SUPPORT. Tests. The words of the decoding tests are written out from spec/30_encoding.md R91 and
R95, the expected results of the step tests are rows of spec/95_test_vectors.md part 2, and every
statement that has hypotheses has a witness: a state and operands that meet all of them. -/

namespace Sys2Proof.Tests

open Sys2Proof Sys2Proof.Machine Sys2Proof.Config

/-! ### Helpers -/

/-- Cells written one by one. -/
def poke (m : Memory) : List (Nat × Int) → Memory
  | [] => m
  | (a, v) :: rest => poke (writeCell m a v) rest

/-- The machine of the spec's examples after reset but for `pc`, the cells from `pc` on, the registers, the
flags and some further cells. -/
def sample (pc : Int) (cells gpr : List Int) (flags : FlagBits) (more : List (Nat × Int)) : State :=
  { State.reset with
    pc := pc
    gpr := [0, 1, 2, 3].map fun i => gpr.getD i 0
    flags := flags
    mem := poke (writeCells 128 [] pc.toNat cells) more }

/-- Another machine: words of 8 bits, 16 cells, 2 registers, the flags in another order, an `add` that sets no
flags, and compare jumps left open on overflow. -/
def small : Params where
  xlen := 8
  memSize := 16
  numGpr := 2
  flagZ := 2
  flagN := 0
  flagNZ := 1
  addUpdatesFlags := false
  cmpOverflow := .openBranch

/-- That machine after reset but for `pc`, the cells from `pc` on and the registers. -/
def smallSample (pc : Int) (cells gpr : List Int) : State :=
  { State.resetWith small with pc := pc, gpr := gpr, mem := writeCells 16 [] pc.toNat cells }

/-- The state after one step. -/
def ran (s : State) : State :=
  match step s with
  | .next t => t
  | .fault _ => s
  | .refused _ => s

/-- After one step: the registers, flags, `pc` and `status` are these, and memory is as before but for
these cells. -/
def becomes (s : State) (gpr : List Int) (flags : FlagBits) (pc : Int) (status : Status)
    (cells : List (Nat × Int)) : Bool :=
  let t := ran s
  decide (t.gpr = gpr) && decide (t.flags = flags) && decide (t.pc = pc) && decide (t.status = status) &&
    decide (t.mem = poke s.mem cells)

theorem inv_of {s : State} (h : (s.params.valid && decide (s.gpr.length = s.params.numGpr) && s.allWords &&
    s.params.hasReg s.sel && s.mem.wf s.params.memSize && decide (s.phase = .idle)) = true) : Invariant s := by
  simp only [Bool.and_eq_true, decide_eq_true_eq] at h
  exact ⟨h.1.1.1.1.1, h.1.1.1.1.2, h.1.1.1.2, h.1.1.2, h.1.2, h.2⟩

theorem fits_of {s : State} {n : Nat} (h : (decide (0 ≤ s.pc) && decide (s.pc + n ≤ s.params.memSize)) = true) :
    s.fits n := by
  simpa [State.fits] using h

theorem holds_of {s : State} {i : Instr}
    (h : (decide (∀ k, k < i.length → inRange s.params (s.toWord (s.pc + k)) = true →
      readCell s.mem (s.toWord (s.pc + k)).toNat = (encode i).getD k 0)) = true) : s.holds i := by
  simpa only [State.holds, decide_eq_true_eq] using h

theorem stepsTo_of {s : State} (h : (match step s with | .next _ => true | _ => false) = true) :
    StepsTo s (ran s) := by
  unfold StepsTo ran
  cases e : step s with
  | next t => rfl
  | fault f => simp [e] at h
  | refused r => simp [e] at h

/-! ### Well-formedness: one ill-formed term for each check (30_encoding R92, R98) -/

theorem test_wf_register_cell_too_large : (Instr.addRegReg 7 0).wf .reference = false := by decide
theorem test_wf_register_cell_negative : (Instr.ldi (-1) 5).wf .reference = false := by decide
theorem test_wf_second_register_cell : (Instr.jeq 0 8 40).wf .reference = false := by decide
theorem test_wf_memory_cell_too_large : (Instr.moveRegMem 0 128).wf .reference = false := by decide
theorem test_wf_memory_cell_negative : (Instr.incMem (-1)).wf .reference = false := by decide
theorem test_wf_largest_cells : (Instr.addRegMem 6 127).wf .reference = true := by decide
theorem test_wf_largest_cells_small : (Instr.addRegMem 4 15).wf small = true ∧ (Instr.addRegMem 5 0).wf small = false ∧
    (Instr.addRegMem 0 16).wf small = false := by decide
theorem test_wf_any_immediate_and_target :
    (Instr.addImmMem (-1) 0).wf .reference = true ∧ (Instr.jmp (-1)).wf .reference = true := by decide

/-! ### Decoding: a word of every row, the first cell in bits 31 to 0 (30_encoding R91, R95) -/

theorem test_decode_addRegReg : decodeTableWord 96 0x00000002_00000003_00000000 = some (.addRegReg 3 2) := by decide
theorem test_decode_addMemReg : decodeTableWord 96 0x00000002_00000003_00000001 = some (.addMemReg 3 2) := by decide
theorem test_decode_addRegMem : decodeTableWord 96 0x00000002_00000003_00000002 = some (.addRegMem 3 2) := by decide
theorem test_decode_addImmMem : decodeTableWord 96 0x00000002_00000003_00000003 = some (.addImmMem 3 2) := by decide
theorem test_decode_subRegReg : decodeTableWord 96 0x00000002_00000003_00000004 = some (.subRegReg 3 2) := by decide
theorem test_decode_subMemReg : decodeTableWord 96 0x00000002_00000003_00000005 = some (.subMemReg 3 2) := by decide
theorem test_decode_subRegMem : decodeTableWord 96 0x00000002_00000003_00000006 = some (.subRegMem 3 2) := by decide
theorem test_decode_subImmMem : decodeTableWord 96 0x00000002_00000003_00000007 = some (.subImmMem 3 2) := by decide
theorem test_decode_reserved8 : decodeTableWord 32 0x00000008 = some .reserved8 := by decide
theorem test_decode_reserved9 : decodeTableWord 32 0x00000009 = some .reserved9 := by decide
theorem test_decode_reserved10 : decodeTableWord 32 0x0000000a = some .reserved10 := by decide
theorem test_decode_moveMemReg : decodeTableWord 96 0x00000002_00000003_0000000b = some (.moveMemReg 3 2) := by decide
theorem test_decode_moveRegMem : decodeTableWord 96 0x00000002_00000003_0000000c = some (.moveRegMem 3 2) := by decide
theorem test_decode_moveRegReg : decodeTableWord 96 0x00000002_00000003_0000000d = some (.moveRegReg 3 2) := by decide
theorem test_decode_moveImmReg : decodeTableWord 96 0x00000002_00000003_0000000e = some (.moveImmReg 3 2) := by decide
theorem test_decode_incReg : decodeTableWord 64 0x00000003_0000000f = some (.incReg 3) := by decide
theorem test_decode_incMem : decodeTableWord 64 0x00000003_00000010 = some (.incMem 3) := by decide
theorem test_decode_jmp : decodeTableWord 64 0x00000003_00000011 = some (.jmp 3) := by decide
theorem test_decode_jn : decodeTableWord 64 0x00000003_00000012 = some (.jn 3) := by decide
theorem test_decode_jz : decodeTableWord 64 0x00000003_00000013 = some (.jz 3) := by decide
theorem test_decode_jnz : decodeTableWord 64 0x00000003_00000014 = some (.jnz 3) := by decide
theorem test_decode_jeq : decodeTableWord 128 0x0000007f_00000002_00000003_00000015 = some (.jeq 3 2 127) := by decide
theorem test_decode_jgt : decodeTableWord 128 0x0000007f_00000002_00000003_00000016 = some (.jgt 3 2 127) := by decide
theorem test_decode_jlw : decodeTableWord 128 0x0000007f_00000002_00000003_00000017 = some (.jlw 3 2 127) := by decide
theorem test_decode_ldi : decodeTableWord 96 0x00000002_00000003_00000018 = some (.ldi 3 2) := by decide
theorem test_decode_unmatched : decodeTableWord 32 0x00000019 = none := by decide
theorem test_decode_whole_word : decodeTableWord 96 0x00000005_00000000_00000118 = none := by decide
theorem test_decode_operand_cells_are_whole :
    decodeTableWord 96 0xffffffff_80000000_00000018 = some (.ldi (-2147483648) (-1)) := by decide
theorem test_withFetchWord : decode (State.reset.withFetchWord 32 22).streamCells = .ok (.jgt 0 0 0, []) := by decide

/-! ### One step (95_test_vectors part 2) -/

theorem test_addRegReg_wraps :
    becomes (sample 10 [0, 2, 3] [0, 0, 1, 2147483647] 0 []) [0, 0, 1, -2147483648] 6 13 .running [] = true := by decide

theorem test_addRegReg_negative_result :
    becomes (sample 10 [0, 1, 2] [0, -9, 2, 0] 0 []) [0, -9, -7, 0] 6 13 .running [] = true := by decide

theorem test_addMemReg_uses_the_value :
    becomes (sample 10 [1, 127, 2] [0, 0, -4, 0] 0 [(127, 10)]) [0, 0, 6, 0] 4 13 .running [] = true := by decide

theorem test_addMemReg_reads_its_own_opcode :
    becomes (sample 10 [1, 10, 0] [100, 0, 0, 0] 0 []) [101, 0, 0, 0] 4 13 .running [] = true := by decide

theorem test_addRegMem_zero_result :
    becomes (sample 10 [2, 0, 126] [7, 0, 0, 0] 0 [(126, -7)]) [7, 0, 0, 0] 1 13 .running [(126, 0)] = true := by decide

theorem test_addRegMem_writes_its_own_cell :
    becomes (sample 10 [2, 3, 12] [0, 0, 0, 5] 0 []) [0, 0, 0, 5] 4 13 .running [(12, 17)] = true := by decide

theorem test_addImmMem_sets_flags :
    becomes (sample 10 [3, 0, 127] [0, 0, 0, 0] 1 [(127, -5)]) [0, 0, 0, 0] 6 13 .running [(127, -5)] = true := by decide

theorem test_addImmMem_wraps :
    becomes (sample 10 [3, -2147483648, 127] [0, 0, 0, 0] 0 [(127, -1)]) [0, 0, 0, 0] 4 13 .running [(127, 2147483647)] = true := by decide

theorem test_subRegReg_destination_minus_source :
    becomes (sample 10 [4, 0, 1] [5, 3, 0, 0] 0 []) [5, -2, 0, 0] 6 13 .running [] = true := by decide

theorem test_subRegReg_wraps :
    becomes (sample 10 [4, 0, 1] [-1, 2147483647, 0, 0] 0 []) [-1, -2147483648, 0, 0] 6 13 .running [] = true := by decide

theorem test_subMemReg_negative_result :
    becomes (sample 10 [5, 127, 2] [0, 0, 4, 0] 0 [(127, 10)]) [0, 0, -6, 0] 6 13 .running [] = true := by decide

theorem test_subMemReg_zero_result :
    becomes (sample 10 [5, 127, 2] [0, 0, 10, 0] 0 [(127, 10)]) [0, 0, 0, 0] 1 13 .running [] = true := by decide

theorem test_subRegMem_destination_minus_source :
    becomes (sample 10 [6, 0, 126] [7, 0, 0, 0] 0 [(126, 2)]) [7, 0, 0, 0] 6 13 .running [(126, -5)] = true := by decide

theorem test_subRegMem_zero_result :
    becomes (sample 10 [6, 0, 126] [7, 0, 0, 0] 0 [(126, 7)]) [7, 0, 0, 0] 1 13 .running [(126, 0)] = true := by decide

theorem test_subImmMem_wraps :
    becomes (sample 10 [7, 1, 127] [0, 0, 0, 0] 0 [(127, -2147483648)]) [0, 0, 0, 0] 4 13 .running [(127, 2147483647)] = true := by decide

theorem test_subImmMem_subtracts_min :
    becomes (sample 10 [7, -2147483648, 127] [0, 0, 0, 0] 0 [(127, 0)]) [0, 0, 0, 0] 6 13 .running [(127, -2147483648)] = true := by decide

theorem test_moveMemReg_keeps_flags :
    becomes (sample 10 [11, 127, 1] [0, 0, 0, 0] 6 [(127, 8)]) [0, 8, 0, 0] 6 13 .running [] = true := by decide

theorem test_moveMemReg_negative_address :
    becomes (sample 10 [11, -1, 0] [1, 2, 3, 4] 4 []) [1, 2, 3, 4] 4 11 (.fault (.addressOutOfRange (-1))) [] = true := by decide

theorem test_moveRegMem_writes_the_next_opcode :
    becomes (sample 10 [12, 0, 13] [-1, 0, 0, 0] 0 []) [-1, 0, 0, 0] 0 13 .running [(13, -1)] = true := by decide

theorem test_moveRegMem_stores_nothing_on_fault :
    becomes (sample 10 [12, 0, 128] [1, 2, 3, 4] 4 []) [1, 2, 3, 4] 4 12 (.fault (.addressOutOfRange 128)) [] = true := by decide

theorem test_moveRegReg_copies_first_to_second :
    becomes (sample 10 [13, 2, 0] [0, 0, -9, 0] 4 []) [-9, 0, -9, 0] 4 13 .running [] = true := by decide

theorem test_moveRegReg_reads_pc_after_one_advance :
    becomes (sample 10 [13, 4, 1] [0, 0, 0, 0] 0 []) [0, 11, 0, 0] 0 13 .running [] = true := by decide

theorem test_moveImmReg_keeps_flags :
    becomes (sample 10 [14, -2147483648, 0] [1, 0, 0, 0] 1 []) [-2147483648, 0, 0, 0] 1 13 .running [] = true := by decide

theorem test_moveImmReg_into_pc_then_advances :
    becomes (sample 10 [14, 50, 4] [0, 0, 0, 0] 0 []) [0, 0, 0, 0] 0 51 .running [] = true := by decide

theorem test_incReg_wraps :
    becomes (sample 10 [15, 3] [0, 0, 0, 2147483647] 0 []) [0, 0, 0, -2147483648] 6 12 .running [] = true := by decide

theorem test_incReg_last_cells_of_memory :
    becomes (sample 126 [15, 0] [1, 2, 3, 4] 4 []) [2, 2, 3, 4] 4 128 .running [] = true := by decide

theorem test_incMem_its_own_operand :
    becomes (sample 10 [16, 11] [0, 0, 0, 0] 0 []) [0, 0, 0, 0] 4 12 .running [(11, 12)] = true := by decide

theorem test_incMem_negative_address :
    becomes (sample 10 [16, -7] [1, 2, 3, 4] 4 []) [1, 2, 3, 4] 4 11 (.fault (.addressOutOfRange (-7))) [] = true := by decide

theorem test_jmp_target_unchecked :
    becomes (sample 10 [17, 500] [0, 0, 0, 0] 5 []) [0, 0, 0, 0] 5 500 .running [] = true := by decide

theorem test_jmp_operand_outside_memory :
    becomes (sample 127 [17] [1, 2, 3, 4] 4 []) [1, 2, 3, 4] 4 128 (.fault (.addressOutOfRange 128)) [] = true := by decide

theorem test_jn_taken :
    becomes (sample 12 [18, 30] [0, 0, 0, 0] 6 []) [0, 0, 0, 0] 6 30 .running [] = true := by decide

theorem test_jn_not_taken :
    becomes (sample 12 [18, 30] [0, 0, 0, 0] 4 []) [0, 0, 0, 0] 4 14 .running [] = true := by decide

theorem test_jz_taken :
    becomes (sample 20 [19, 4] [0, 0, 0, 0] 1 []) [0, 0, 0, 0] 1 4 .running [] = true := by decide

theorem test_jz_reads_operand_when_not_taken :
    becomes (sample 127 [19] [1, 2, 3, 4] 4 []) [1, 2, 3, 4] 4 128 (.fault (.addressOutOfRange 128)) [] = true := by decide

theorem test_jnz_taken :
    becomes (sample 15 [20, 6] [0, 0, 0, 0] 4 []) [0, 0, 0, 0] 4 6 .running [] = true := by decide

theorem test_jnz_not_the_complement_of_zero :
    becomes (sample 15 [20, 6] [0, 0, 0, 0] 0 []) [0, 0, 0, 0] 0 17 .running [] = true := by decide

theorem test_jeq_taken_flags_kept :
    becomes (sample 10 [21, 0, 1, 40] [7, 7, 0, 0] 6 []) [7, 7, 0, 0] 6 40 .running [] = true := by decide

theorem test_jeq_second_id_bad :
    becomes (sample 10 [21, 0, 8, 40] [1, 2, 3, 4] 4 []) [1, 2, 3, 4] 4 12 (.fault (.registerIdOutOfRange 8)) [] = true := by decide

theorem test_jgt_taken :
    becomes (sample 10 [22, 0, 1, 40] [5, 3, 0, 0] 0 []) [5, 3, 0, 0] 0 40 .running [] = true := by decide

theorem test_jgt_overflow :
    becomes (sample 10 [22, 0, 1, 40] [2147483647, -1, 0, 0] 0 []) [2147483647, -1, 0, 0] 0 14 .running [] = true := by decide

theorem test_jlw_taken :
    becomes (sample 10 [23, 0, 1, 40] [-2, 3, 0, 0] 0 []) [-2, 3, 0, 0] 0 40 .running [] = true := by decide

theorem test_jlw_overflow :
    becomes (sample 10 [23, 0, 1, 40] [-2147483648, 1, 0, 0] 0 []) [-2147483648, 1, 0, 0] 0 14 .running [] = true := by decide

theorem test_ldi_negative_id :
    becomes (sample 10 [24, -1, 5] [1, 2, 3, 4] 4 []) [1, 2, 3, 4] 4 11 (.fault (.registerIdOutOfRange (-1))) [] = true := by decide

theorem test_ldi_into_flags :
    becomes (sample 10 [24, 6, 13] [0, 0, 0, 0] 0 []) [0, 0, 0, 0] 5 13 .running [] = true := by decide

theorem test_reserved8_halts :
    becomes (sample 10 [8, 1, 2] [1, 2, 3, 4] 4 []) [1, 2, 3, 4] 4 10 .halted [] = true := by decide

theorem test_reserved9_halts :
    becomes (sample 10 [9, 1, 2] [1, 2, 3, 4] 4 []) [1, 2, 3, 4] 4 10 .halted [] = true := by decide

theorem test_reserved10_halts :
    becomes (sample 10 [10, 1, 2] [1, 2, 3, 4] 4 []) [1, 2, 3, 4] 4 10 .halted [] = true := by decide

theorem test_whole_word_is_matched :
    becomes (sample 10 [280] [1, 2, 3, 4] 4 []) [1, 2, 3, 4] 4 10 .halted [] = true := by decide

theorem test_fetch_at_minus_one :
    becomes (sample (-1) [] [1, 2, 3, 4] 4 []) [1, 2, 3, 4] 4 (-1) (.fault (.addressOutOfRange (-1))) [] = true := by decide

/-! ### One step of another machine (00_scope R7): its own word width, ids, flag positions and settings. The
results are calculated by hand from 41_add_sub R161, 43_inc R191, 70_reset_and_hazards R314 and
60_exceptions R272. -/

theorem test_small_add_wraps_without_flags :
    let t := ran (smallSample 0 [0, 0, 1] [127, 1])
    t.gpr = [127, -128] ∧ t.flags = 0 ∧ t.pc = 3 := by decide

theorem test_small_inc_sets_zero_in_its_place :
    let t := ran (smallSample 14 [15, 1] [0, -1])
    t.gpr = [0, 0] ∧ t.flags = 0b100#3 ∧ t.pc = 16 := by decide

theorem test_small_flags_id : (ran (smallSample 0 [24, 4, 5] [0, 0])).flags = 0b101#3 := by decide

theorem test_small_fetch_above_memory :
    (ran (smallSample 16 [] [0, 0])).status = .fault (.addressOutOfRange 16) := by decide

/-! ### Witnesses: for every statement with hypotheses, a state and operands that meet all of them, at the
edges of their ranges, and for each clause that has hypotheses of its own -/

theorem witness_InvariantHoldsAtReset : Params.valid .reference = true ∧ small.valid = true := by decide

theorem witness_StepRunsTheDecodedInstruction :
    ∃ (s : State) (i : Instr) (rest : List Int), s.status = .running ∧ inRange s.params s.pc = true ∧
      decode s.streamCells = .ok (i, rest) :=
  ⟨sample 125 [24, 3, -1] [] 0 [], .ldi 3 (-1), [0], by decide, by decide, by decide⟩

theorem witness_TerminalStatesDoNothing :
    State.terminal { State.reset with status := .halted } ∧
      State.terminal { State.reset with status := .fault (.addressOutOfRange 128) } := by
  unfold State.terminal; decide

/-- One state of each kind: an implemented opcode, and a cell that halts. -/
theorem witness_OpcodeWordsMatchExactly :
    ∃ s s' : State, s.status = .running ∧ inRange s.params s.pc = true ∧ s'.status = .running ∧
      inRange s'.params s'.pc = true ∧ (microprogram s.params (readCell s.mem s.pc.toNat)).isSome = true ∧
      (microprogram s'.params (readCell s'.mem s'.pc.toNat)).isSome = false ∧ (ran s').status = .halted ∧
      24 < readCell s'.mem s'.pc.toNat ∧ (microprogram s.params (Instr.jgt 3 0 40).opcode).isSome = true ∧
      s.leavesOpen (.jgt 3 0 40) = false :=
  ⟨sample 0 [24, 0, 5] [] 0 [], sample 127 [25] [] 0 [], by decide, by decide, by decide, by decide, by decide,
    by decide, by decide, by decide, by decide, by decide⟩

theorem witness_BusHoldsTheLastWordPut : Bus.int1 ≠ Bus.ext := by decide

/-- The extreme words, and the first integer that wraps. -/
theorem witness_WrapGivesTheCongruentWord :
    isWord 32 2147483647 = true ∧ isWord 32 (-2147483648) = true ∧ wrap 32 2147483648 = -2147483648 ∧
      (2 ^ 32 : Int) ∣ -2147483648 - 2147483648 := by decide

/-- The four ways flags change. -/
theorem witness_OnlyDerivationAndStoresChangeFlags :
    (∃ s s' : State, (Transaction.deriveFlags .int1).apply s = .ok s' ∧ s'.flags ≠ s.flags) ∧
    (∃ s s' : State, (Transaction.regStore .flags).apply s = .ok s' ∧ s'.flags ≠ s.flags) ∧
    (∃ s s' : State, (Transaction.regInternalStore .flags).apply s = .ok s' ∧ s'.flags ≠ s.flags) ∧
    (∃ s s' : State, s.sel = .flags ∧ Transaction.rfStore.apply s = .ok s' ∧ s'.flags ≠ s.flags) :=
  ⟨⟨State.reset, _, rfl, by decide⟩, ⟨{ State.reset with extbus := 5 }, _, rfl, by decide⟩,
    ⟨{ State.reset with intbus2 := 5 }, _, rfl, by decide⟩,
    ⟨{ State.reset with extbus := 5, sel := .flags }, _, rfl, rfl, by decide⟩⟩

/-- A state with a word on the external bus. -/
def onBus (v : Int) : State := { State.reset with extbus := v }

/-- Both clauses at both ends of the address space. -/
theorem witness_MemoryReadTransaction :
    (∀ a ∈ [0, 127], 0 ≤ (onBus a).extbus ∧ (onBus a).extbus < (onBus a).params.memSize) ∧
      ∀ a ∈ [-1, 128], (onBus a).extbus < 0 ∨ (onBus a).params.memSize ≤ (onBus a).extbus := by decide

theorem witness_MemoryStoreHasTwoPhases :
    (Invariant (onBus 0) ∧ inRange (onBus 0).params (onBus 0).extbus = true) ∧
      (Invariant (onBus 127) ∧ inRange (onBus 127).params (onBus 127).extbus = true) ∧
      (Invariant (onBus 128) ∧ inRange (onBus 128).params (onBus 128).extbus = false) ∧
      (Invariant (onBus (-1)) ∧ inRange (onBus (-1)).params (onBus (-1)).extbus = false) :=
  ⟨⟨inv_of (by decide), by decide⟩, ⟨inv_of (by decide), by decide⟩, ⟨inv_of (by decide), by decide⟩,
    ⟨inv_of (by decide), by decide⟩⟩

/-- Each clause: ids 0 and 3, 4, 5, 6, and the two words next to the range. -/
theorem witness_SelectorLoadTakesTheId :
    let P := Params.reference
    0 < P.numGpr ∧ 3 < P.numGpr ∧ (onBus 3).extbus = (3 : Nat) ∧ (onBus 4).extbus = P.idPc ∧
      (onBus 5).extbus = P.idIr ∧ (onBus 6).extbus = P.idFlags ∧ P.numReg ≤ (onBus 7).extbus ∧
      (onBus (-1)).extbus < 0 := by decide

theorem witness_FetchReadsTheCellAtPc :
    ∀ a ∈ [(0, true), (127, true), (128, false), (-1, false)],
      inRange (sample a.1 [] [] 0 []).params (sample a.1 [] [] 0 []).pc = a.2 := by decide

/-- The two machines of these tests, each with a result of every sign. -/
theorem witness_FlagsOfAResult :
    small.valid = true ∧ flagsOf small 0 = 0b100#3 ∧ flagsOf small 7 = 0b010#3 ∧ flagsOf small (-7) = 0b011#3 ∧
      (0 : Int) < 2147483647 ∧ (-2147483648 : Int) < 0 := by decide

theorem witness_TransactionAndMemoryCounts : Params.reference.addUpdatesFlags = true := rfl

/-- A step on each machine. -/
theorem witness_StepsKeepTheParameters : ∃ s t s' t' : State, StepsTo s t ∧ StepsTo s' t' ∧ s.params ≠ s'.params :=
  ⟨sample 0 [24, 0, 5] [] 0 [], _, smallSample 0 [24, 0, 5] [0, 0], _, stepsTo_of (by decide),
    stepsTo_of (by decide), by decide⟩

/-- Three cells that end at the top of memory, on both machines. -/
theorem witness_AddSubBetweenRegisters :
    ∃ s s' : State, Invariant s ∧ s.fits 3 ∧ 3 < s.params.numGpr ∧ Invariant s' ∧ s'.fits 3 ∧
      1 < s'.params.numGpr ∧ s'.params.addUpdatesFlags = false :=
  ⟨sample 125 [0, 0, 3] [] 0 [], smallSample 13 [0, 0, 1] [1, 2], inv_of (by decide), fits_of (by decide), by decide,
    inv_of (by decide), fits_of (by decide), by decide, by decide⟩

theorem witness_AddSubMemoryIntoRegister :
    ∃ s : State, Invariant s ∧ s.fits 3 ∧ inRange s.params 127 = true ∧ inRange s.params 0 = true ∧
      3 < s.params.numGpr :=
  ⟨sample 125 [1, 127, 3] [] 0 [], inv_of (by decide), fits_of (by decide), by decide, by decide, by decide⟩

theorem witness_AddSubRegisterIntoMemory :
    ∃ (s : State) (m : Int), Invariant s ∧ s.fits 3 ∧ 3 < s.params.numGpr ∧ inRange s.params m = true :=
  ⟨sample 125 [2, 3, 127] [7] 0 [], 127, inv_of (by decide), fits_of (by decide), by decide, by decide⟩

theorem witness_AddSubImmediateIntoMemory :
    ∃ (s : State) (m : Int), Invariant s ∧ s.fits 3 ∧ inRange s.params m = true :=
  ⟨sample 125 [7, 1, 0] [] 0 [], 0, inv_of (by decide), fits_of (by decide), by decide⟩

theorem witness_MovesIntoRegisters :
    ∃ s : State, Invariant s ∧ s.fits 3 ∧ 0 < s.params.numGpr ∧ 3 < s.params.numGpr ∧ inRange s.params 127 = true :=
  ⟨sample 125 [11, 127, 0] [] 0 [], inv_of (by decide), fits_of (by decide), by decide, by decide, by decide⟩

theorem witness_MoveRegisterIntoMemory :
    ∃ (s : State) (m : Int), Invariant s ∧ s.fits 3 ∧ 3 < s.params.numGpr ∧ inRange s.params m = true :=
  ⟨sample 125 [12, 3, 127] [5] 0 [], 127, inv_of (by decide), fits_of (by decide), by decide, by decide⟩

theorem witness_IncrementRegister : ∃ s : State, Invariant s ∧ s.fits 2 ∧ 3 < s.params.numGpr :=
  ⟨sample 126 [15, 3] [] 0 [], inv_of (by decide), fits_of (by decide), by decide⟩

theorem witness_IncrementMemory : ∃ (s : State) (m : Int), Invariant s ∧ s.fits 2 ∧ inRange s.params m = true :=
  ⟨sample 126 [16, 127] [] 0 [], 127, inv_of (by decide), fits_of (by decide), by decide⟩

theorem witness_JumpsOnFlags : ∃ s : State, Invariant s ∧ s.fits 2 :=
  ⟨sample 126 [18, 30] [] 2 [], inv_of (by decide), fits_of (by decide)⟩

theorem witness_JumpIfEqual : ∃ s : State, Invariant s ∧ s.fits 4 ∧ 0 < s.params.numGpr ∧ 3 < s.params.numGpr :=
  ⟨sample 124 [21, 0, 3, 40] [7, 7] 0 [], inv_of (by decide), fits_of (by decide), by decide, by decide⟩

theorem witness_JumpOnWrappedDifference :
    ∃ s : State, Invariant s ∧ s.fits 4 ∧ 0 < s.params.numGpr ∧ 3 < s.params.numGpr ∧
      s.params.cmpOverflow = .signOfWrappedDifference :=
  ⟨sample 124 [22, 0, 3, 40] [2147483647, 0, 0, -1] 0 [], inv_of (by decide), fits_of (by decide), by decide,
    by decide, rfl⟩

/-- The two extreme differences that still fit a word, on both settings of `CMP_OVERFLOW`. -/
theorem witness_JumpOnSignedOrderWithoutOverflow :
    ∃ s s' : State, Invariant s ∧ s.fits 4 ∧ s.gpr.getD 0 0 - s.gpr.getD 1 0 = -2 ^ (s.params.xlen - 1) ∧
      1 < s.params.numGpr ∧ Invariant s' ∧ s'.fits 4 ∧
      s'.gpr.getD 0 0 - s'.gpr.getD 1 0 = 2 ^ (s'.params.xlen - 1) - 1 ∧ 1 < s'.params.numGpr ∧
      s'.params.cmpOverflow = .openBranch :=
  ⟨sample 124 [] [-2147483648, 0] 0 [], smallSample 12 [] [0, -127], inv_of (by decide), fits_of (by decide),
    by decide, by decide, inv_of (by decide), fits_of (by decide), by decide, by decide, rfl⟩

theorem witness_ReservedAndUnmatchedWordsHalt :
    ∃ s s' : State, s.fits 1 ∧ s.status = .running ∧ 24 < readCell s.mem s.pc.toNat ∧ s'.fits 1 ∧
      s'.status = .running ∧ readCell s'.mem s'.pc.toNat < 0 :=
  ⟨sample 127 [25] [] 0 [], sample 0 [-1] [] 0 [], fits_of (by decide), by decide, by decide, fits_of (by decide),
    by decide, by decide⟩

theorem witness_MovesNamingPcIrFlags :
    ∃ (s : State) (m : Int), Invariant s ∧ s.fits 3 ∧ 3 < s.params.numGpr ∧ inRange s.params m = true :=
  ⟨sample 125 [13, 4, 4] [] 0 [], 127, inv_of (by decide), fits_of (by decide), by decide, by decide⟩

/-- A general-purpose destination with an open result, and PC, IR and Flags as destinations. -/
theorem witness_OpenRegisterResultFrame :
    ∃ s : State, Invariant s ∧ s.fits 3 ∧
      ∀ i ∈ [Instr.addRegReg 4 0, .subRegReg 0 4, .subMemReg 127 5, .addRegReg 6 6],
        i.wf s.params = true ∧ isArithmetic i = true ∧ (registerDestination i).isSome = true ∧
          s.namesSpecialOperand i = true ∧ i.length = 3 := by
  refine ⟨sample 125 [0, 4, 0] [] 0 [], inv_of (by decide), fits_of (by decide), ?_⟩
  simp only [List.forall_mem_cons, List.not_mem_nil, false_implies, implies_true, and_true]
  decide

/-- A memory destination, a comparand that names PC, and a comparison that overflows on the machine that
leaves it open: 127 and -1 in 8 bits. -/
theorem witness_OpenMemoryResultAndOpenBranchFrame :
    ∃ s s' : State, Invariant s ∧ s.fits 4 ∧ s.fits 3 ∧
      ((Instr.subRegMem 6 127).wf s.params = true ∧ s.leavesOpen (.subRegMem 6 127) = true ∧
        memoryDestination (.subRegMem 6 127) = some 127 ∧ (Instr.subRegMem 6 127).length = 3) ∧
      ((Instr.jeq 0 4 128).wf s.params = true ∧ s.leavesOpen (.jeq 0 4 128) = true ∧
        jumpTarget (.jeq 0 4 128) = some 128 ∧ (Instr.jeq 0 4 128).length = 4) ∧
      Invariant s' ∧ s'.fits 4 ∧ (Instr.jgt 0 1 9).wf s'.params = true ∧ s'.leavesOpen (.jgt 0 1 9) = true ∧
      s'.namesSpecialOperand (.jgt 0 1 9) = false ∧ jumpTarget (.jgt 0 1 9) = some 9 :=
  ⟨sample 124 [21, 0, 4, 128] [] 0 [], smallSample 12 [22, 0, 1, 9] [127, -1], inv_of (by decide),
    fits_of (by decide), fits_of (by decide), by decide, by decide, inv_of (by decide), fits_of (by decide), by decide,
    by decide, by decide, by decide⟩

/-- For each form two states: one where it completes, one where it raises an event. -/
theorem witness_AddFollowsItsRules :
    ∀ i ∈ [Instr.addRegReg 0 3, .addRegReg 0 7, .addMemReg 127 3, .addMemReg 128 3, .addRegMem 3 0,
        .addRegMem 3 128, .addImmMem 5 127, .addImmMem 5 (-1)],
      ∃ s : State, Invariant s ∧ inRange s.params s.pc = true ∧ s.holds i := by
  simp only [List.forall_mem_cons, List.not_mem_nil, false_implies, implies_true, and_true]
  exact ⟨⟨sample 125 [0, 0, 3] [] 0 [], inv_of (by decide), by decide, holds_of (by decide)⟩,
    ⟨sample 10 [0, 0, 7] [] 0 [], inv_of (by decide), by decide, holds_of (by decide)⟩,
    ⟨sample 125 [1, 127, 3] [] 0 [], inv_of (by decide), by decide, holds_of (by decide)⟩,
    ⟨sample 10 [1, 128, 3] [] 0 [], inv_of (by decide), by decide, holds_of (by decide)⟩,
    ⟨sample 125 [2, 3, 0] [] 0 [], inv_of (by decide), by decide, holds_of (by decide)⟩,
    ⟨sample 10 [2, 3, 128] [] 0 [], inv_of (by decide), by decide, holds_of (by decide)⟩,
    ⟨sample 125 [3, 5, 127] [] 0 [], inv_of (by decide), by decide, holds_of (by decide)⟩,
    ⟨sample 10 [3, 5, -1] [] 0 [], inv_of (by decide), by decide, holds_of (by decide)⟩⟩

/-- Words that name no register but general-purpose ones, valid and not; on both machines. -/
theorem witness_operands_not_special :
    (∀ v ∈ [0, 3, 7, -1], namesSpecial .reference v = false) ∧ (∀ v ∈ [4, 5, 6], namesSpecial .reference v = true) ∧
      (∀ v ∈ [0, 1, 5, -1], namesSpecial small v = false) ∧ ∀ v ∈ [2, 3, 4], namesSpecial small v = true := by
  decide

theorem witness_SubFollowsItsRules :
    ∀ i ∈ [Instr.subRegReg 3 0, .subMemReg 0 3, .subRegMem 3 127, .subImmMem 5 128],
      ∃ s : State, Invariant s ∧ inRange s.params s.pc = true ∧ s.holds i := by
  simp only [List.forall_mem_cons, List.not_mem_nil, false_implies, implies_true, and_true]
  exact ⟨⟨sample 125 [4, 3, 0] [] 0 [], inv_of (by decide), by decide, holds_of (by decide)⟩,
    ⟨sample 125 [5, 0, 3] [] 0 [], inv_of (by decide), by decide, holds_of (by decide)⟩,
    ⟨sample 125 [6, 3, 127] [] 0 [], inv_of (by decide), by decide, holds_of (by decide)⟩,
    ⟨sample 10 [7, 5, 128] [] 0 [], inv_of (by decide), by decide, holds_of (by decide)⟩⟩

/-- The last one lies across the top of memory: its third cell does not exist. -/
theorem witness_MoveFollowsItsRules :
    ∀ i ∈ [Instr.moveMemReg 127 3, .moveRegMem 3 127, .moveRegReg 0 7, .moveImmReg (-1) 3],
      ∃ s : State, Invariant s ∧ inRange s.params s.pc = true ∧ s.holds i := by
  simp only [List.forall_mem_cons, List.not_mem_nil, false_implies, implies_true, and_true]
  exact ⟨⟨sample 125 [11, 127, 3] [] 0 [], inv_of (by decide), by decide, holds_of (by decide)⟩,
    ⟨sample 125 [12, 3, 127] [] 0 [], inv_of (by decide), by decide, holds_of (by decide)⟩,
    ⟨sample 10 [13, 0, 7] [] 0 [], inv_of (by decide), by decide, holds_of (by decide)⟩,
    ⟨sample 126 [14, -1] [] 0 [], inv_of (by decide), by decide, holds_of (by decide)⟩⟩

theorem witness_IncFollowsItsRules :
    ∀ i ∈ [Instr.incReg 3, .incReg 7, .incMem 127, .incMem 128],
      ∃ s : State, Invariant s ∧ inRange s.params s.pc = true ∧ s.holds i := by
  simp only [List.forall_mem_cons, List.not_mem_nil, false_implies, implies_true, and_true]
  exact ⟨⟨sample 126 [15, 3] [] 0 [], inv_of (by decide), by decide, holds_of (by decide)⟩,
    ⟨sample 127 [15] [] 0 [], inv_of (by decide), by decide, holds_of (by decide)⟩,
    ⟨sample 126 [16, 127] [] 0 [], inv_of (by decide), by decide, holds_of (by decide)⟩,
    ⟨sample 10 [16, 128] [] 0 [], inv_of (by decide), by decide, holds_of (by decide)⟩⟩

theorem witness_JmpFollowsItsRule :
    ∃ (s : State) (t : Int), Invariant s ∧ inRange s.params s.pc = true ∧ s.holds (.jmp t) ∧
      inRange s.params t = false ∧ s.status = .running ∧ inRange s.params (s.pc + 1) = true :=
  ⟨sample 126 [17, 128] [] 0 [], 128, inv_of (by decide), by decide, holds_of (by decide), by decide, by decide,
    by decide⟩

theorem witness_ConditionalJumpsFollowTheirRules :
    ∀ i ∈ [Instr.jn 30, .jz 30, .jnz 30],
      ∃ s : State, Invariant s ∧ inRange s.params s.pc = true ∧ s.holds i := by
  simp only [List.forall_mem_cons, List.not_mem_nil, false_implies, implies_true, and_true]
  exact ⟨⟨sample 126 [18, 30] [] 2 [], inv_of (by decide), by decide, holds_of (by decide)⟩,
    ⟨sample 127 [19] [] 4 [], inv_of (by decide), by decide, holds_of (by decide)⟩,
    ⟨sample 0 [20, 30] [] 4 [], inv_of (by decide), by decide, holds_of (by decide)⟩⟩

/-- The last two are on the machine that leaves an overflowing comparison open: 127 and 0 do not overflow. -/
theorem witness_CompareJumpsFollowTheirRules :
    (∀ i ∈ [Instr.jeq 0 3 40, .jgt 3 0 40, .jlw 7 0 40],
      ∃ s : State, Invariant s ∧ inRange s.params s.pc = true ∧ s.holds i ∧ s.comparisonOpen 0 3 = false) ∧
    ∀ i ∈ [Instr.jgt 0 1 9, .jlw 0 1 9], ∃ s : State, Invariant s ∧ inRange s.params s.pc = true ∧ s.holds i ∧
      s.comparisonOpen 0 1 = false ∧ s.params.cmpOverflow = .openBranch := by
  simp only [List.forall_mem_cons, List.not_mem_nil, false_implies, implies_true, and_true]
  exact ⟨⟨⟨sample 124 [21, 0, 3, 40] [] 0 [], inv_of (by decide), by decide, holds_of (by decide), by decide⟩,
      ⟨sample 125 [22, 3, 0] [] 0 [], inv_of (by decide), by decide, holds_of (by decide), by decide⟩,
      ⟨sample 10 [23, 7, 0, 40] [] 0 [], inv_of (by decide), by decide, holds_of (by decide), by decide⟩⟩,
    ⟨smallSample 12 [22, 0, 1, 9] [127, 0], inv_of (by decide), by decide, holds_of (by decide), by decide, rfl⟩,
    ⟨smallSample 0 [23, 0, 1, 9] [127, 0], inv_of (by decide), by decide, holds_of (by decide), by decide, rfl⟩⟩

theorem witness_LdiFollowsItsRule :
    ∃ s s' : State, Invariant s ∧ inRange s.params s.pc = true ∧ s.holds (.ldi 3 (-1)) ∧ Invariant s' ∧
      inRange s'.params s'.pc = true ∧ s'.holds (.ldi 7 5) :=
  ⟨sample 125 [24, 3, -1] [] 0 [], sample 10 [24, 7, 5] [] 0 [], inv_of (by decide), by decide, holds_of (by decide),
    inv_of (by decide), by decide, holds_of (by decide)⟩

theorem witness_LdiIsMoveImmediate :
    ∃ s : State, Invariant s ∧ s.fits 3 ∧ registerIdValid s.params 0 = true ∧ registerIdValid s.params 6 = true :=
  ⟨sample 125 [] [] 0 [], inv_of (by decide), fits_of (by decide), by decide, by decide⟩

theorem witness_StepKeepsTheInvariant : ∃ s t : State, Invariant s ∧ StepsTo s t ∧ t.mem ≠ s.mem :=
  ⟨sample 0 [3, 5, 127] [] 0 [], ran (sample 0 [3, 5, 127] [] 0 []), inv_of (by decide), stepsTo_of (by decide), by decide⟩

/-- A state that leaves nothing open, and one that does. -/
theorem witness_StepRefinesTheInstructionRules :
    ∃ s s' : State, Invariant s ∧ s.leavesResultOpen = false ∧ s'.leavesResultOpen = true :=
  ⟨sample 0 [0, 1, 2] [] 0 [], sample 0 [0, 4, 2] [] 0 [], inv_of (by decide), by decide, by decide⟩

theorem witness_StepIsTheTransactionCycle : ∃ s : State, s.leavesResultOpen = false ∧ s.phase = .latched :=
  ⟨{ sample 0 [12, 0, 127] [] 0 [] with phase := .latched }, by decide, by decide⟩

/-- Two states that differ in transient state. -/
theorem witness_StepDependsOnArchitecturalStateAlone :
    ∃ s s' t t' : State, s.arch = s'.arch ∧ Invariant s ∧ Invariant s' ∧ s.freeCount = s'.freeCount ∧
      StepsTo s t ∧ StepsTo s' t' ∧ s.slot0 ≠ s'.slot0 ∧ s.ir ≠ s'.ir ∧ s.sel ≠ s'.sel :=
  ⟨sample 0 [0, 4, 0] [] 0 [], { sample 0 [0, 4, 0] [] 0 [] with ir := 1, slot0 := 2, sel := .flags }, _, _, rfl,
    inv_of (by decide), inv_of (by decide), rfl, stepsTo_of (by decide), stepsTo_of (by decide), by decide, by decide, by decide⟩

/-- Both faults: at the last cell of an instruction of four cells, at the second of three, and at an opcode
cell that cannot be read. -/
theorem witness_FaultsArePrecise :
    (∃ s t : State, Invariant s ∧ s.status = .running ∧ StepsTo s t ∧ s.instructionAtPc = some (.jeq 0 0 0) ∧
      t.status = .fault (.addressOutOfRange 128) ∧ t.pc = s.pc + 3) ∧
    (∃ s t : State, Invariant s ∧ s.status = .running ∧ StepsTo s t ∧ s.instructionAtPc = some (.ldi (-1) 5) ∧
      t.status = .fault (.registerIdOutOfRange (-1)) ∧ t.pc = s.pc + 1) ∧
    ∃ s t : State, Invariant s ∧ s.status = .running ∧ StepsTo s t ∧ s.instructionAtPc = none ∧
      t.status = .fault (.addressOutOfRange (-1)) ∧ t.pc = s.pc :=
  ⟨⟨sample 125 [21, 0, 0] [] 0 [], _, inv_of (by decide), by decide, stepsTo_of (by decide), by decide, by decide,
      by decide⟩,
    ⟨sample 10 [24, -1, 5] [] 0 [], _, inv_of (by decide), by decide, stepsTo_of (by decide), by decide, by decide,
      by decide⟩,
    ⟨sample (-1) [] [] 0 [], _, inv_of (by decide), by decide, stepsTo_of (by decide), by decide, by decide,
      by decide⟩⟩

theorem witness_FaultsHaveACause :
    ∃ s t : State, Invariant s ∧ s.status = .running ∧ StepsTo s t ∧ t.status = .fault (.addressOutOfRange (-1)) :=
  ⟨sample (-1) [] [] 0 [], _, inv_of (by decide), by decide, stepsTo_of (by decide), by decide⟩

theorem witness_OnlyDestinationRegistersChange :
    ∃ s t : State, Invariant s ∧ StepsTo s t ∧ t.gpr[3]? ≠ s.gpr[3]? :=
  ⟨sample 0 [24, 3, 5] [] 0 [], _, inv_of (by decide), stepsTo_of (by decide), by decide⟩

/-- An arithmetic instruction, and a move into Flags. -/
theorem witness_OnlyArithmeticAndFlagMovesChangeFlags :
    ∃ s s' t t' : State, Invariant s ∧ StepsTo s t ∧ t.flags ≠ s.flags ∧ Invariant s' ∧ StepsTo s' t' ∧
      t'.flags ≠ s'.flags :=
  ⟨sample 0 [15, 3] [] 0 [], sample 0 [24, 6, 5] [] 0 [], _, _, inv_of (by decide), stepsTo_of (by decide), by decide,
    inv_of (by decide), stepsTo_of (by decide), by decide⟩

theorem witness_OnlyDestinationCellsChange :
    ∃ s t : State, Invariant s ∧ StepsTo s t ∧ readCell t.mem 127 ≠ readCell s.mem 127 :=
  ⟨sample 0 [16, 127] [] 0 [], _, inv_of (by decide), stepsTo_of (by decide), by decide⟩

/-- Each of the three cases. -/
theorem witness_ControlTransfersOnlyByJumpsAndPcWrites :
    ∀ cells ∈ [[15, 3], [17, 40], [24, 4, 50]], ∃ s t : State, s = sample 10 cells [] 0 [] ∧ Invariant s ∧
      s.status = .running ∧ StepsTo s t ∧ t.status = .running := by
  simp only [List.forall_mem_cons, List.not_mem_nil, false_implies, implies_true, and_true]
  exact ⟨⟨_, _, rfl, inv_of (by decide), by decide, stepsTo_of (by decide), by decide⟩,
    ⟨_, _, rfl, inv_of (by decide), by decide, stepsTo_of (by decide), by decide⟩,
    ⟨_, _, rfl, inv_of (by decide), by decide, stepsTo_of (by decide), by decide⟩⟩

/-- An `add` on the machine whose `add` sets flags, an `inc` on the one whose `add` does not. -/
theorem witness_ArithmeticLeavesOneOfThreeFlagValues :
    (∃ (s t : State) (i : Instr), Invariant s ∧ s.status = .running ∧ s.instructionAtPc = some i ∧
      isArithmetic i = true ∧ s.namesSpecialOperand i = false ∧ StepsTo s t ∧ s.params.addUpdatesFlags = true ∧
      t.status = .running) ∧
    ∃ (s t : State) (i : Instr), Invariant s ∧ s.status = .running ∧ s.instructionAtPc = some i ∧
      isArithmetic i = true ∧ s.namesSpecialOperand i = false ∧ StepsTo s t ∧ 4 ≤ i.opcode ∧ t.status = .running :=
  ⟨⟨sample 0 [0, 1, 2] [] 7 [], _, .addRegReg 1 2, inv_of (by decide), by decide, by decide, by decide, by decide,
      stepsTo_of (by decide), rfl, by decide⟩,
    ⟨smallSample 0 [15, 1] [0, 0], _, .incReg 1, inv_of (by decide), by decide, by decide, by decide, by decide,
      stepsTo_of (by decide), by decide, by decide⟩⟩

theorem witness_StoredWordIsFetchedNext : ∃ s : State, Invariant s ∧ s.fits 4 ∧ 0 < s.params.numGpr :=
  ⟨sample 124 [12, 0, 127] [-1] 0 [], inv_of (by decide), fits_of (by decide), by decide⟩

theorem objectFits_replicate (n : Nat) (hn : n ≠ 0) :
    objectFits .reference (List.replicate n 5) = decide (n + 1 ≤ 128) := by
  have h : decide ((5 : Int) ≠ sentinel) = true := by decide
  have hw : isWord 32 5 = true := by decide
  rw [objectFits, objectCells, List.takeWhile_replicate, h, if_pos rfl, List.length_replicate, List.all_replicate,
    if_neg hn]
  simp [Params.reference, hw]

/-- The longest image that fits, the shortest that does not, and one that holds `-1` itself. -/
theorem witness_LoaderWritesTheImageAndItsSentinel :
    State.reset.mem.wf State.reset.params.memSize = true ∧ objectFits .reference (List.replicate 127 5) = true ∧
      objectFits .reference [24, sentinel, 5] = true ∧ objectFits .reference (List.replicate 128 5) = false :=
  ⟨rfl, objectFits_replicate 127 (by decide), by decide, objectFits_replicate 128 (by decide)⟩

/-- The states after launch and after one step (95_test_vectors part 1.1), with other words in the memory the
loader does not write. -/
theorem witness_ReachableStatesKeepTheInvariant :
    Params.reference.valid = true ∧ Memory.wf 128 [(50, 7), (127, -1)] = true ∧
      ([(50, 7), (127, -1)].map Prod.snd).all (isWord 32) = true ∧ objectFits .reference [24, 0, 5] = true ∧
      Reachable .reference [(50, 7), (127, -1)] [24, 0, 5]
        (ran (State.launch .reference [(50, 7), (127, -1)] [24, 0, 5])) :=
  ⟨by decide, by decide, by decide, by decide, .step .launch (stepsTo_of (by decide))⟩

end Sys2Proof.Tests
end

section
/-! SUPPORT. The opcode word selects the microprogram (30_encoding R96, 40_micro_operations R135): what the
table, the decoder, `exec` and `step` make of one opcode word. -/

namespace Sys2Proof.Machine

open Sys2Proof.Config

/-! ### The table and the decoder -/

theorem microprogram_of_outside (P : Params) {v : Int} (hv : v < 0 ∨ 24 < v) : microprogram P v = none := by
  unfold microprogram
  split
  case h_23 => rfl
  all_goals omega

theorem decode_of_outside {v : Int} (hv : v < 0 ∨ 24 < v) (cells : List Int) :
    decode (v :: cells) = .error (.unmatched v) := by
  change decodeOperands v cells = _
  unfold decodeOperands
  split
  case h_26 => rfl
  all_goals omega

/-- Three cells after the opcode are enough for every row of the table (30_encoding R90), and the row is the
one of the whole opcode word. -/
theorem decode_four_cells {v : Int} (h0 : 0 ≤ v) (h24 : v ≤ 24) (c₁ c₂ c₃ : Int) :
    ∃ i rest, decode [v, c₁, c₂, c₃] = .ok (i, rest) ∧ i.opcode = v := by
  interval_cases v <;> exact ⟨_, _, rfl, rfl⟩

/-! ### What `exec` runs -/

/-- What 70_reset_and_hazards R313 and 45_compare_jumps R210 (c) make of the state after the microprogram of an
instruction that `s` leaves open. -/
def State.openedBy (s : State) : Instr → State → State
  | .addRegReg _ b, u | .addMemReg _ b, u => u.openRegisterResult s.params.addUpdatesFlags b
  | .subRegReg _ b, u | .subMemReg _ b, u | .incReg b, u => u.openRegisterResult true b
  | .addRegMem _ m, u => u.openMemoryResult s.params.addUpdatesFlags m
  | .subRegMem _ m, u => u.openMemoryResult true m
  | .jeq _ _ t, u | .jgt _ _ t, u | .jlw _ _ t, u => u.openBranch t (u.toWord (s.pc + 4))
  | .addImmMem _ _, u | .subImmMem _ _, u | .incMem _, u => u
  | .moveMemReg _ _, u | .moveRegMem _ _, u | .moveRegReg _ _, u | .moveImmReg _ _, u | .ldi _ _, u => u
  | .jmp _, u | .jn _, u | .jz _, u | .jnz _, u => u
  | .reserved8, u | .reserved9, u | .reserved10, u => u

/-- The state after the microprogram of `i`, with the results that `s` leaves open as free values. -/
def State.settledBy (s : State) (i : Instr) (u : State) : State :=
  if s.leavesOpen i then s.openedBy i u else u

/-- `exec` runs the microprogram that the table holds for the opcode word. -/
theorem exec_of_microprogram {s : State} {i : Instr} {p : CellReader → Microprogram}
    (h : microprogram s.params i.opcode = some p) : exec i s = executeWith i p (s.settledBy i) s := by
  cases i
  case reserved8 | reserved9 | reserved10 => cases h
  case addImmMem | subImmMem | moveMemReg | moveRegMem | moveRegReg | moveImmReg | incMem | jmp | jn | jz | jnz
    | ldi => cases h; rfl
  all_goals
    cases h
    refine congrArg (executeWith _ _ · s) (funext fun u => ?_)
    simp [settleRegister, settleMemory, settleBranch, State.settledBy, State.openedBy, State.leavesOpen,
      State.namesSpecialOperand, State.leavesOrderOpen, aluRegisters]

/-- Where the table holds none, `exec` halts in Decode. -/
theorem exec_of_no_microprogram {s : State} {i : Instr} (h : microprogram s.params i.opcode = none) :
    exec i s = haltStep (.cellRead i.opcode) s := by
  cases i
  case reserved8 | reserved9 | reserved10 => rfl
  all_goals cases h

theorem settledBy_of_not_open {s : State} {i : Instr} (h : s.leavesOpen i = false) : s.settledBy i = id := by
  funext u
  simp [State.settledBy, h]

theorem executeWith_id (i : Instr) (p : CellReader → Microprogram) (s : State) :
    executeWith i p id s = finishStep (instructionStep (givenCells (encode i)) p s) := by
  rw [executeWith, Except.map_id]; rfl

/-! ### No microprogram changes the control unit's state -/

/-- The state a run of transactions ends in, completed or faulted. -/
def runState : Run → State
  | .ok s => s
  | .error (_, s) => s

@[simp] theorem runState_ok (s : State) : runState (.ok s) = s := rfl
@[simp] theorem runState_error (f : Fault) (s : State) : runState (.error (f, s)) = s := rfl

theorem apply_status (t : Transaction) (s : State) : (runState (t.apply s)).status = s.status := by
  cases t
  case selLoad =>
    rw [Transaction.apply, State.selectorLoad]
    split <;> rfl
  case memRead =>
    rw [Transaction.apply, State.memoryRead]
    split <;> simp
  case cellRead c =>
    rw [Transaction.apply, State.instructionCellRead]
    split <;> simp
  case memStore =>
    rw [Transaction.apply, State.memoryStore]
    split
    · split <;> rfl
    · rfl
  all_goals
    simp [Transaction.apply, State.registerRead, State.registerStore, State.registerInternalRead,
      State.registerInternalStore, State.aluStore, State.aluInternalStore, State.aluRead, State.aluInternalRead]

theorem runTransactions_status (ts : List Transaction) (s : State) :
    (runState (runTransactions ts s)).status = s.status := by
  induction ts generalizing s with
  | nil => rfl
  | cons t rest ih =>
    have ht := apply_status t s
    rw [runTransactions]
    cases e : t.apply s with
    | ok s₁ => rw [e] at ht; exact (ih s₁).trans ht
    | error e₁ => rwa [e] at ht

theorem microprogram_run_status (p : Microprogram) (s : State) : (runState (p.run s)).status = s.status := by
  have hb := runTransactions_status p.body s
  rw [Microprogram.run]
  cases e : runTransactions p.body s with
  | error e₁ => rwa [e] at hb
  | ok s₁ =>
    rw [e] at hb
    cases p.test with
    | none => exact hb
    | some t => exact (runTransactions_status _ s₁).trans hb

theorem instructionStep_status (cells : CellReader) (p : CellReader → Microprogram) (s : State) :
    (runState (instructionStep cells p s)).status = s.status := by
  have hf := runTransactions_status (fetchDecode (cells 0)) s
  rw [instructionStep]
  cases e : runTransactions (fetchDecode (cells 0)) s with
  | error e₁ => rwa [e] at hf
  | ok s₁ => rw [e] at hf; exact (microprogram_run_status _ s₁).trans hf

theorem openRegisterResult_status (s : State) (setsFlags : Bool) (b : Int) :
    (s.openRegisterResult setsFlags b).status = s.status := by
  rw [State.openRegisterResult]
  split
  · cases setsFlags <;> simp
  · rfl

theorem openMemoryResult_status (s : State) (setsFlags : Bool) (m : Int) :
    (s.openMemoryResult setsFlags m).status = s.status := by
  cases setsFlags <;> rfl

theorem settledBy_status (s : State) (i : Instr) (u : State) : (s.settledBy i u).status = u.status := by
  rw [State.settledBy]
  split
  · cases i <;> simp [State.openedBy, openRegisterResult_status, openMemoryResult_status]
  · rfl

/-- A finished step is HALTED only if the run before it was. -/
theorem finishStep_not_halted {r : Run} {t : State} (hr : (runState r).status ≠ .halted)
    (h : finishStep r = .next t) : t.status ≠ .halted := by
  rcases r with ⟨f, u⟩ | u
  · cases h; simp
  · cases h; exact hr

/-- An instruction with a microprogram does not halt a running machine. -/
theorem exec_not_halted {s t : State} {i : Instr} {p : CellReader → Microprogram} (hrun : s.status = .running)
    (hp : microprogram s.params i.opcode = some p) (h : exec i s = .next t) : t.status ≠ .halted := by
  rw [exec_of_microprogram hp, executeWith] at h
  have hs := instructionStep_status (givenCells (encode i)) p s
  refine finishStep_not_halted ?_ h
  cases e : instructionStep (givenCells (encode i)) p s with
  | error e₁ =>
    rw [e, hrun] at hs
    exact fun hh => by cases hs.symm.trans hh
  | ok s₁ =>
    rw [e, hrun] at hs
    exact fun hh => by cases hs.symm.trans ((settledBy_status s i s₁).symm.trans hh)

/-! ### What `step` does with the opcode word -/

/-- Where the cell at `pc` can be read, a step that selects no microprogram halts (60_exceptions R271). -/
theorem haltStep_halts {t : Transaction} {s : State} {c : Int} (ht : ReadsAs t s.mem s.pc c)
    (hpc : inRange s.params s.pc = true) : ∃ u, haltStep t s = .next u ∧ u.status = .halted := by
  rw [haltStep, run_fetchDecode ht, if_pos hpc]
  exact ⟨_, rfl, rfl⟩

/-- A running machine whose opcode cell lies in memory runs the instruction of that whole word, or the word is
no opcode. -/
theorem step_running_cases {s : State} (hrun : s.status = .running) (hpc : inRange s.params s.pc = true) :
    (∃ i, i.opcode = readCell s.mem s.pc.toNat ∧ step s = exec i s) ∨
      ((readCell s.mem s.pc.toNat < 0 ∨ 24 < readCell s.mem s.pc.toNat) ∧ step s = execUnmatched s) := by
  have hcells : s.streamCells =
      [readCell s.mem s.pc.toNat, s.streamCell 1, s.streamCell 2, s.streamCell 3] :=
    congrArg (· :: _) (if_pos hpc)
  by_cases hv : readCell s.mem s.pc.toNat < 0 ∨ 24 < readCell s.mem s.pc.toNat
  · refine .inr ⟨hv, ?_⟩
    simp [step, hrun, State.instructionAtPc, hpc, hcells, decode_of_outside hv]
  · obtain ⟨hlow, hhigh⟩ : 0 ≤ readCell s.mem s.pc.toNat ∧ readCell s.mem s.pc.toNat ≤ 24 := by omega
    obtain ⟨i, rest, hi, hop⟩ :=
      decode_four_cells hlow hhigh (s.streamCell 1) (s.streamCell 2) (s.streamCell 3)
    refine .inl ⟨i, hop, ?_⟩
    simp [step, hrun, State.instructionAtPc, hpc, hcells, hi]

/-- A running machine halts exactly where the opcode word selects no microprogram (30_encoding R96). -/
theorem microprogram_eq_none_iff_step_halts {s : State} (hrun : s.status = .running)
    (hpc : inRange s.params s.pc = true) :
    microprogram s.params (readCell s.mem s.pc.toNat) = none ↔ ∃ t, step s = .next t ∧ t.status = .halted := by
  obtain ⟨i, hop, hstep⟩ | ⟨hv, hstep⟩ := step_running_cases hrun hpc
  · rw [hstep, ← hop]
    cases hp : microprogram s.params i.opcode with
    | none =>
      rw [exec_of_no_microprogram hp, hop]
      exact iff_of_true rfl (haltStep_halts (readsAs_cellRead _ _ _) hpc)
    | some p =>
      exact iff_of_false nofun fun ⟨t, ht, hhalt⟩ => exec_not_halted hrun hp ht hhalt
  · rw [hstep]
    exact iff_of_true (microprogram_of_outside _ hv) (haltStep_halts (readsAs_memRead _ _) hpc)

/-- Settles O7. The table is compared row by row, `exec` through `exec_of_microprogram`, and the step through
the decoder. -/
theorem opcodeWordsMatchExactly : Obligations.OpcodeWordsMatchExactly := by
  unfold Obligations.OpcodeWordsMatchExactly
  refine ⟨fun P => rfl, fun P v hv => microprogram_of_outside P hv, fun s i p hp hopen => ?_,
    fun s hrun hpc => microprogram_eq_none_iff_step_halts hrun hpc⟩
  rw [exec_of_microprogram hp, settledBy_of_not_open hopen, executeWith_id]

end Sys2Proof.Machine
end

section
/-! SUPPORT. The micro-operations (40_micro_operations R120 to R124, R134): what one transaction of a bus, of
the ALU or of a register changes, and what Fetch does. -/

namespace Sys2Proof.Machine

open Sys2Proof.Config

/-! ### Buses (R120) -/

theorem busGet_busPut_of_ne (s : State) {b b' : Bus} (v : Int) (h : b' ≠ b) :
    (s.busPut b v).busGet b' = s.busGet b' := by
  cases b <;> cases b'
  case ext.ext | int1.int1 | int2.int2 => exact absurd rfl h
  all_goals rfl

/-- Settles O8. -/
theorem busHoldsTheLastWordPut : Obligations.BusHoldsTheLastWordPut := by
  unfold Obligations.BusHoldsTheLastWordPut
  exact fun s b v => ⟨busGet_busPut s b v, fun _ h => busGet_busPut_of_ne s v h, busPut_arch s b v⟩

/-! ### The ALU (R122, R123) -/

/-- Settles O9. Each transfer is one get and one put, on the internal bus that its name fixes. -/
theorem aluOperandTransfers : Obligations.AluOperandTransfers := by
  unfold Obligations.AluOperandTransfers
  exact fun s i => ⟨rfl, rfl, rfl, rfl⟩

/-- Settles O10. Each command is one row of `aluResult`, stored by `State.aluCommand`. -/
theorem aluCommandsWriteSlotOne : Obligations.AluCommandsWriteSlotOne := by
  unfold Obligations.AluCommandsWriteSlotOne
  exact fun s => ⟨rfl, rfl, rfl⟩

/-! ### What changes the flags (R124) -/

theorem setReg_flags_of_ne (s : State) {r : Reg} (v : Int) (h : r ≠ .flags) :
    (s.setReg r v).flags = s.flags := by
  cases r with
  | flags => exact absurd rfl h
  | gpr | pc | ir => rfl

/-- A store into a register changes the flags only if that register is Flags. -/
theorem eq_flags_of_setReg_flags_ne {s : State} {r : Reg} {v : Int}
    (h : (s.setReg r v).flags ≠ s.flags) : r = .flags :=
  by_contra fun hr => h (setReg_flags_of_ne s v hr)

theorem selectorLoad_flags {s s' : State} (h : s.selectorLoad = .ok s') : s'.flags = s.flags := by
  rw [State.selectorLoad] at h
  split at h <;> cases h
  rfl

theorem memoryRead_flags {s s' : State} (h : s.memoryRead = .ok s') : s'.flags = s.flags := by
  rw [State.memoryRead] at h
  split at h <;> cases h
  exact busPut_flags s _ _

theorem instructionCellRead_flags {s s' : State} {c : Int} (h : s.instructionCellRead c = .ok s') :
    s'.flags = s.flags := by
  rw [State.instructionCellRead] at h
  split at h <;> cases h
  exact busPut_flags s _ _

theorem memoryStore_flags {s s' : State} (h : s.memoryStore = .ok s') : s'.flags = s.flags := by
  rw [State.memoryStore] at h
  split at h
  · split at h <;> cases h
    rfl
  · cases h
    rfl

/-- Settles O11, one transaction at a time: a derivation and the four stores are the forms that the statement
names, every other transaction leaves the flags as they were. -/
theorem onlyDerivationAndStoresChangeFlags : Obligations.OnlyDerivationAndStoresChangeFlags := by
  unfold Obligations.OnlyDerivationAndStoresChangeFlags
  intro t s s' h hne
  cases t with
  | deriveFlags b => exact .inl ⟨b, rfl⟩
  | regStore r =>
    cases h
    obtain rfl : r = .flags := eq_flags_of_setReg_flags_ne hne
    exact .inr (.inl rfl)
  | regInternalStore r =>
    cases h
    obtain rfl : r = .flags := eq_flags_of_setReg_flags_ne hne
    exact .inr (.inr (.inl rfl))
  | rfStore =>
    cases h
    exact .inr (.inr (.inr ⟨eq_flags_of_setReg_flags_ne hne, .inl rfl⟩))
  | rfInternalStore =>
    cases h
    exact .inr (.inr (.inr ⟨eq_flags_of_setReg_flags_ne hne, .inr rfl⟩))
  | selLoad => exact absurd (selectorLoad_flags h) hne
  | memRead => exact absurd (memoryRead_flags h) hne
  | cellRead c => exact absurd (instructionCellRead_flags h) hne
  | memStore => exact absurd (memoryStore_flags h) hne
  | regRead | regInternalRead | rfRead | rfInternalRead | aluRead | aluInternalRead =>
    cases h
    exact absurd (busPut_flags s _ _) hne
  | aluStore | aluInternalStore =>
    cases h
    exact absurd (setSlot_flags s _ _) hne
  | aluCommand op =>
    cases h
    exact absurd (aluCommand_flags s op) hne

/-! ### Fetch (R134) -/

/-- Fetch is one `CELL` (R132) and a store into IR. -/
theorem run_fetch (s : State) :
    runTransactions [.regRead .pc, .memRead, .regStore .ir] s =
      if inRange s.params s.pc then
        .ok { s with extbus := readCell s.mem s.pc.toNat, ir := readCell s.mem s.pc.toNat }
      else .error (.addressOutOfRange s.pc, { s with extbus := s.pc }) :=
  run_cellFetch (readsAs_memRead s.mem s.pc) [.regStore .ir]

/-- Settles O16. Where the cell cannot be read, only the external bus has changed. -/
theorem fetchReadsTheCellAtPc : Obligations.FetchReadsTheCellAtPc := by
  unfold Obligations.FetchReadsTheCellAtPc
  refine ⟨rfl, fun s => ⟨fun hpc => ?_, fun hpc => ⟨{ s with extbus := s.pc }, ?_, rfl, rfl⟩⟩⟩
  · rw [run_fetch, if_pos hpc]
  · rw [run_fetch, hpc, if_neg Bool.false_ne_true]

end Sys2Proof.Machine
end

section
/-! SUPPORT. Decoding inverts encoding (30_encoding R91, R93, R96). -/

namespace Sys2Proof

theorem takeCell1_eq_ok_iff {v : Int} {make : Int → Instr} {cells rest : List Int} {i : Instr} :
    takeCell1 v make cells = .ok (i, rest) ↔ ∃ c, i = make c ∧ cells = c :: rest := by
  rcases cells with _ | ⟨c, cells⟩ <;> simp [takeCell1, eq_comm]

theorem takeCell2_eq_ok_iff {v : Int} {make : Int → Int → Instr} {cells rest : List Int} {i : Instr} :
    takeCell2 v make cells = .ok (i, rest) ↔ ∃ c d, i = make c d ∧ cells = c :: d :: rest := by
  rcases cells with _ | ⟨c, _ | ⟨d, cells⟩⟩ <;> simp [takeCell2, eq_comm]

theorem takeCell3_eq_ok_iff {v : Int} {make : Int → Int → Int → Instr} {cells rest : List Int} {i : Instr} :
    takeCell3 v make cells = .ok (i, rest) ↔ ∃ c d e, i = make c d e ∧ cells = c :: d :: e :: rest := by
  rcases cells with _ | ⟨c, _ | ⟨d, _ | ⟨e, cells⟩⟩⟩ <;> simp [takeCell3, eq_comm]

/-- Encoding, then decoding, gives the instruction back. -/
theorem decode_encode_append (i : Instr) (rest : List Int) : decode (encode i ++ rest) = .ok (i, rest) := by
  cases i <;> rfl

/-- A list of cells that decodes to an instruction starts with that instruction's cells. -/
theorem eq_encode_append_of_decode {cells rest : List Int} {i : Instr} (h : decode cells = .ok (i, rest)) :
    cells = encode i ++ rest := by
  rcases cells with _ | ⟨v, cells⟩
  · cases h
  · rw [decode] at h
    unfold decodeOperands at h
    split at h
    case h_26 => cases h
    case h_9 | h_10 | h_11 => cases h; rfl
    case h_16 | h_17 | h_18 | h_19 | h_20 | h_21 =>
      obtain ⟨c, rfl, rfl⟩ := takeCell1_eq_ok_iff.1 h
      rfl
    case h_22 | h_23 | h_24 =>
      obtain ⟨c, d, e, rfl, rfl⟩ := takeCell3_eq_ok_iff.1 h
      rfl
    all_goals
      obtain ⟨c, d, rfl, rfl⟩ := takeCell2_eq_ok_iff.1 h
      rfl

/-- Settles O6. -/
theorem decodeAndEncodeAgree : Obligations.DecodeAndEncodeAgree := by
  unfold Obligations.DecodeAndEncodeAgree
  exact fun cells rest i => ⟨eq_encode_append_of_decode, fun h => h ▸ decode_encode_append i rest⟩

/-- Settles O5. Each word of the table is one evaluation of the decoder. -/
theorem encodedWordsDecode : Obligations.EncodedWordsDecode := by
  unfold Obligations.EncodedWordsDecode
  exact ⟨rfl, rfl, rfl, rfl, rfl, rfl, rfl, rfl, rfl, rfl⟩

end Sys2Proof
end

section
/-! SUPPORT. The meaning of a decoded instruction on the architectural state: its cells are checked one after the
other, opcode first, and then one effect happens. The rules of Machine/Rules.lean are of this form
(`rule_eq_meaning`), and every step is (`exec_meaning`, below). -/

namespace Sys2Proof

/-- The event that the word of a cell of this kind raises where it is not valid (30_encoding R98). -/
def CellKind.fault : CellKind → Int → Machine.Fault
  | .reg, v => .registerIdOutOfRange v
  | .mem, a | .imm, a | .addr, a => .addressOutOfRange a

/-- The cells of an instruction, the opcode cell first. Any word may stand in the opcode cell, as in an `Imm`
cell. -/
def Instr.cells (i : Instr) : List (CellKind × Int) := (.imm, i.opcode) :: i.operands

theorem map_snd_cells (i : Instr) : i.cells.map Prod.snd = encode i := by cases i <;> rfl

theorem length_cells (i : Instr) : i.cells.length = i.length := by cases i <;> rfl

theorem all_valid_cells (P : Config.Params) (i : Instr) :
    i.cells.all (fun c => c.1.valid P c.2) = i.wf P := by
  simp [Instr.cells, Instr.wf, CellKind.valid]

end Sys2Proof

namespace Sys2Proof.Machine

open Sys2Proof.Config

/-! ### Checking the cells -/

/-- A fault names a word that is no address, or one that names no register (60_exceptions R272, R273). -/
def Fault.hasCause (P : Params) : Fault → Prop
  | .addressOutOfRange a => inRange P a = false
  | .registerIdOutOfRange v => registerIdValid P v = false

theorem hasCause_fault {P : Params} {kind : CellKind} {v : Int} (h : kind.valid P v = false) :
    (kind.fault v).hasCause P := by
  cases kind
  case reg | mem => exact h
  case imm | addr => cases h

/-- Reading and using cell `k`: its own address is checked, then its word. -/
def Arch.checkCell (m : Arch) (k : Nat) (c : CellKind × Int) : RuleRun Unit :=
  if inRange m.params (m.cellAddress k) then
    if c.1.valid m.params c.2 then .ok () else .error (c.1.fault c.2, m.cellAddress k)
  else .error (.addressOutOfRange (m.cellAddress k), m.cellAddress k)

/-- Reading and using consecutive cells, the first of them cell `k`: the first bad one raises its event. -/
def Arch.checkCells (m : Arch) : Nat → List (CellKind × Int) → RuleRun Unit
  | _, [] => .ok ()
  | k, c :: rest => do m.checkCell k c; m.checkCells (k + 1) rest

theorem checkCells_cons_of_inRange {m : Arch} {k : Nat} (h : inRange m.params (m.cellAddress k) = true)
    (kind : CellKind) (c : Int) (cs : List (CellKind × Int)) :
    m.checkCells k ((kind, c) :: cs) =
      if kind.valid m.params c then m.checkCells (k + 1) cs else .error (kind.fault c, m.cellAddress k) := by
  rw [Arch.checkCells, Arch.checkCell, if_pos h]
  split <;> rfl

theorem checkCells_cons_of_not_inRange {m : Arch} {k : Nat} (h : ¬ inRange m.params (m.cellAddress k) = true)
    (c : CellKind × Int) (cs : List (CellKind × Int)) :
    m.checkCells k (c :: cs) = .error (.addressOutOfRange (m.cellAddress k), m.cellAddress k) := by
  rw [Arch.checkCells, Arch.checkCell, if_neg h]
  rfl

theorem valid_reg (P : Params) (c : Int) : CellKind.valid P .reg c = (regOfId P c).isSome :=
  Bool.eq_iff_iff.2 regOfId_isSome_iff.symm

theorem valid_mem (P : Params) (a : Int) : CellKind.valid P .mem a = inRange P a := rfl

theorem checkCell_error {m : Arch} {k : Nat} {c : CellKind × Int} {f : Fault} {pc : Int}
    (h : m.checkCell k c = .error (f, pc)) : pc = m.cellAddress k ∧ f.hasCause m.params := by
  rw [Arch.checkCell] at h
  split at h
  · split at h <;> cases h
    exact ⟨rfl, hasCause_fault (Bool.eq_false_iff.2 ‹_›)⟩
  · cases h
    exact ⟨rfl, Bool.eq_false_iff.2 ‹_›⟩

/-- An event of the cells is raised at one of them, and has its cause. -/
theorem checkCells_error {m : Arch} {k : Nat} {cs : List (CellKind × Int)} {f : Fault} {pc : Int}
    (h : m.checkCells k cs = .error (f, pc)) :
    (∃ j, j < cs.length ∧ pc = m.cellAddress (k + j)) ∧ f.hasCause m.params := by
  induction cs generalizing k with
  | nil => cases h
  | cons c rest ih =>
    rw [Arch.checkCells] at h
    cases hc : m.checkCell k c with
    | ok _ =>
      rw [hc] at h
      obtain ⟨⟨j, hj, hpc⟩, hf⟩ := ih h
      exact ⟨⟨j + 1, Nat.succ_lt_succ hj, by rw [hpc, Nat.add_assoc, Nat.add_comm 1]⟩, hf⟩
    | error e =>
      rw [hc] at h
      obtain rfl : e = (f, pc) := Except.error.inj h
      obtain ⟨hpc, hf⟩ := checkCell_error hc
      exact ⟨⟨0, Nat.succ_pos _, hpc⟩, hf⟩

/-- Valid cells that lie in memory raise no event. -/
theorem checkCells_ok {m : Arch} {k : Nat} {cs : List (CellKind × Int)}
    (hmem : ∀ j, j < cs.length → inRange m.params (m.cellAddress (k + j)) = true)
    (hvalid : cs.all (fun c => c.1.valid m.params c.2) = true) : m.checkCells k cs = .ok () := by
  induction cs generalizing k with
  | nil => rfl
  | cons c rest ih =>
    obtain ⟨kind, v⟩ := c
    obtain ⟨hc, hrest⟩ : kind.valid m.params v = true ∧ rest.all (fun c => c.1.valid m.params c.2) = true := by
      simpa using hvalid
    have hk : inRange m.params (m.cellAddress k) = true := hmem 0 (Nat.succ_pos _)
    rw [checkCells_cons_of_inRange hk, if_pos hc]
    refine ih (fun j hj => ?_) hrest
    have := hmem (j + 1) (Nat.succ_lt_succ hj)
    rwa [Nat.add_assoc, Nat.add_comm 1]

/-! ### The effect -/

/-- The register that a valid id names. -/
def Arch.named (m : Arch) (v : Int) : Reg := (regOfId m.params v).getD .ir

theorem named_eq {m : Arch} {v : Int} {r : Reg} (h : regOfId m.params v = some r) : m.named v = r := by
  rw [Arch.named, h]; rfl

/-- The word that an operand cell of an ALU instruction stands for. -/
def Arch.operand (m : Arch) : CellKind → Int → Int
  | .reg, v => m.reg (m.named v)
  | .mem, a => m.memory a
  | .imm, i | .addr, i => i

/-- The flags written, by an instruction that sets them. -/
def Arch.flagged (m : Arch) (sets : Bool) (f : FlagBits) : Arch := if sets then { m with flags := f } else m

/-- An ALU result into the register that `b` names, by an instruction of `n` cells. -/
def Arch.aluIntoRegister (m : Arch) (sets : Bool) (n : Nat) (b r : Int) : Arch :=
  ((m.flagged sets (flagsOf m.params r)).advance n).setReg (m.named b) r

/-- An ALU result into the cell with address `a`, by an instruction of `n` cells. -/
def Arch.aluIntoMemory (m : Arch) (sets : Bool) (n : Nat) (a r : Int) : Arch :=
  ((m.flagged sets (flagsOf m.params r)).setMemory a r).advance n

/-- The effect of an instruction whose cells are valid, where it leaves nothing open. -/
def Arch.effect (m : Arch) : Instr → Arch
  | .addRegReg a b =>
    m.aluIntoRegister m.params.addUpdatesFlags 3 b (m.wrap (m.operand .reg b + m.operand .reg a))
  | .addMemReg a b =>
    m.aluIntoRegister m.params.addUpdatesFlags 3 b (m.wrap (m.operand .reg b + m.operand .mem a))
  | .addRegMem a d =>
    m.aluIntoMemory m.params.addUpdatesFlags 3 d (m.wrap (m.operand .mem d + m.operand .reg a))
  | .addImmMem i d =>
    m.aluIntoMemory m.params.addUpdatesFlags 3 d (m.wrap (m.operand .mem d + m.operand .imm i))
  | .subRegReg a b => m.aluIntoRegister true 3 b (m.wrap (m.operand .reg b - m.operand .reg a))
  | .subMemReg a b => m.aluIntoRegister true 3 b (m.wrap (m.operand .reg b - m.operand .mem a))
  | .subRegMem a d => m.aluIntoMemory true 3 d (m.wrap (m.operand .mem d - m.operand .reg a))
  | .subImmMem i d => m.aluIntoMemory true 3 d (m.wrap (m.operand .mem d - m.operand .imm i))
  | .reserved8 | .reserved9 | .reserved10 => { m with status := .halted }
  | .moveMemReg a b => m.moveInto (m.named b) (m.memory a)
  | .moveRegMem a d => (m.setMemory d (m.moveSource 12 2 (m.named a))).advance 3
  | .moveRegReg a b => m.moveInto (m.named b) (m.moveSource 13 1 (m.named a))
  | .moveImmReg i b => m.moveInto (m.named b) i
  | .incReg a => m.aluIntoRegister true 2 a (m.wrap (m.operand .reg a + 1))
  | .incMem d => m.aluIntoMemory true 2 d (m.wrap (m.operand .mem d + 1))
  | .jmp t => { m with pc := t }
  | .jn t => m.jumpIf (negativeFlag m.params m.flags) t 2
  | .jz t => m.jumpIf (zeroFlag m.params m.flags) t 2
  | .jnz t => m.jumpIf (nonzeroFlag m.params m.flags) t 2
  | .jeq a b t => m.jumpIf (decide (m.wrap (m.operand .reg a - m.operand .reg b) = 0)) t 4
  | .jgt a b t => m.jumpIf (decide (0 < m.wrap (m.operand .reg a - m.operand .reg b))) t 4
  | .jlw a b t => m.jumpIf (decide (m.wrap (m.operand .reg a - m.operand .reg b) < 0)) t 4
  | .ldi a i => m.moveInto (m.named a) i

/-- A free value into the register that `b` names (70_reset_and_hazards R313). -/
def Arch.openIntoRegister (m : Arch) (sets : Bool) (n : Nat) (b : Int) (draw : Nat) : Arch :=
  ((m.flagged sets (freeFlags draw)).advance n).setReg (m.named b) (m.wrap (freeWord .aluResult draw))

/-- A free value into the cell with address `a` (R313). -/
def Arch.openIntoMemory (m : Arch) (sets : Bool) (n : Nat) (a : Int) (draw : Nat) : Arch :=
  ((m.flagged sets (freeFlags draw)).setMemory a (m.wrap (freeWord .aluResult draw))).advance n

/-- The effect of an instruction whose cells are valid, where it leaves its result open, with the free values of
draw `draw` (R313, 45_compare_jumps R210 (c)). -/
def Arch.openEffect (m : Arch) (draw : Nat) : Instr → Arch
  | .addRegReg _ b | .addMemReg _ b => m.openIntoRegister m.params.addUpdatesFlags 3 b draw
  | .subRegReg _ b | .subMemReg _ b => m.openIntoRegister true 3 b draw
  | .incReg a => m.openIntoRegister true 2 a draw
  | .addRegMem _ d => m.openIntoMemory m.params.addUpdatesFlags 3 d draw
  | .subRegMem _ d => m.openIntoMemory true 3 d draw
  | .jeq _ _ t | .jgt _ _ t | .jlw _ _ t => m.jumpIf (freeBranch draw) t 4
  | .addImmMem i d => m.effect (.addImmMem i d)
  | .subImmMem i d => m.effect (.subImmMem i d)
  | .incMem d => m.effect (.incMem d)
  | .moveMemReg a b => m.effect (.moveMemReg a b)
  | .moveRegMem a d => m.effect (.moveRegMem a d)
  | .moveRegReg a b => m.effect (.moveRegReg a b)
  | .moveImmReg i b => m.effect (.moveImmReg i b)
  | .ldi a i => m.effect (.ldi a i)
  | .jmp t => m.effect (.jmp t)
  | .jn t => m.effect (.jn t)
  | .jz t => m.effect (.jz t)
  | .jnz t => m.effect (.jnz t)
  | .reserved8 => m.effect .reserved8
  | .reserved9 => m.effect .reserved9
  | .reserved10 => m.effect .reserved10

/-- What the cells' words make of a machine whose instruction is `i`. -/
def Arch.meaning (m : Arch) (i : Instr) : RuleRun Arch := (m.checkCells 0 i.cells).map fun _ => m.effect i

/-! ### The rules of the spec have this form -/

/-- The rule of an instruction's row of the opcode table. -/
def Arch.rule (m : Arch) : Instr → RuleRun Arch
  | .addRegReg _ _ => m.addRegReg
  | .addMemReg _ _ => m.addMemReg
  | .addRegMem _ _ => m.addRegMem
  | .addImmMem _ _ => m.addImmMem
  | .subRegReg _ _ => m.subRegReg
  | .subMemReg _ _ => m.subMemReg
  | .subRegMem _ _ => m.subRegMem
  | .subImmMem _ _ => m.subImmMem
  | .reserved8 | .reserved9 | .reserved10 => .ok { m with status := .halted }
  | .moveMemReg _ _ => m.moveMemReg
  | .moveRegMem _ _ => m.moveRegMem
  | .moveRegReg _ _ => m.moveRegReg
  | .moveImmReg _ _ => m.moveImmReg
  | .incReg _ => m.incReg
  | .incMem _ => m.incMem
  | .jmp _ => m.jmp
  | .jn _ => m.jn
  | .jz _ => m.jz
  | .jnz _ => m.jnz
  | .jeq _ _ _ => m.jeq
  | .jgt _ _ _ => m.jgt
  | .jlw _ _ _ => m.jlw
  | .ldi _ _ => m.ldi

theorem execute_opcode (m : Arch) (i : Instr) : m.execute i.opcode = m.rule i := by cases i <;> rfl

/-- Memory holds `c` in cell `k`, if that cell exists. -/
def Arch.CellHolds (m : Arch) (k : Nat) (c : Int) : Prop :=
  inRange m.params (m.cellAddress k) = true → m.memory (m.cellAddress k) = c

section
variable {m : Arch} {k : Nat} {c : Int} {β : Type} (h : m.CellHolds k c)
include h

/-- An `Imm` or `Addr` cell of the pseudocode. -/
theorem cell_bind (F : Int → RuleRun β) : m.cell k >>= F = m.checkCell k (.imm, c) >>= fun _ => F c := by
  unfold Arch.cell Arch.checkCell
  split
  · rw [← h ‹_›]; rfl
  · rfl

/-- A `Mem` cell of the pseudocode. -/
theorem cell_bind_memCheck (F : Int → RuleRun β) :
    (m.cell k >>= fun a => m.memCheck k a >>= fun _ => F a) = m.checkCell k (.mem, c) >>= fun _ => F c := by
  rw [cell_bind h]
  unfold Arch.checkCell Arch.memCheck
  rw [inRange_eq_addressValid m.params c]
  split
  · rfl
  · rfl

/-- A `Reg` cell of the pseudocode. -/
theorem cell_bind_regId (F : Reg → RuleRun β) :
    (m.cell k >>= fun v => m.regId k v >>= F) = m.checkCell k (.reg, c) >>= fun _ => F (m.named c) := by
  rw [cell_bind h]
  unfold Arch.checkCell Arch.regId Arch.named
  rw [valid_reg]
  split
  · cases regOfId m.params c <;> rfl
  · rfl

end

theorem checkCells_map_nil (m : Arch) (k : Nat) (r : Arch) : (m.checkCells k []).map (fun _ => r) = .ok r := rfl

theorem checkCells_map_cons (m : Arch) (k : Nat) (c : CellKind × Int) (cs : List (CellKind × Int)) (r : Arch) :
    (m.checkCells k (c :: cs)).map (fun _ => r) =
      m.checkCell k c >>= fun _ => (m.checkCells (k + 1) cs).map fun _ => r := by
  rw [Arch.checkCells]
  cases m.checkCell k c <;> rfl

/-- Memory holds these words in consecutive cells, the first of them cell `k`, as far as they exist. -/
def Arch.CellsHold (m : Arch) : Nat → List (CellKind × Int) → Prop
  | _, [] => True
  | k, c :: rest => m.CellHolds k c.2 ∧ m.CellsHold (k + 1) rest

theorem cellsHold_of_forall {m : Arch} {k : Nat} {cs : List (CellKind × Int)}
    (h : ∀ j, j < cs.length → m.CellHolds (k + j) ((cs.map Prod.snd).getD j 0)) : m.CellsHold k cs := by
  induction cs generalizing k with
  | nil => trivial
  | cons c rest ih =>
    refine ⟨h 0 (Nat.succ_pos _), ih fun j hj => ?_⟩
    have := h (j + 1) (Nat.succ_lt_succ hj)
    rwa [Nat.add_comm j, ← Nat.add_assoc, Nat.add_comm 1 j] at this

theorem cellsHold_of_holds {s : State} {i : Instr} (h : s.holds i) : s.arch.CellsHold 0 i.cells := by
  refine cellsHold_of_forall fun j hj hr => ?_
  rw [map_snd_cells, Nat.zero_add] at *
  exact h j (length_cells i ▸ hj) hr

/-- The rule of an instruction checks its operand cells in order and then has the instruction's effect. -/
theorem rule_eq {m : Arch} {i : Instr} (h : m.CellsHold 1 i.operands) :
    m.rule i = (m.checkCells 1 i.operands).map fun _ => m.effect i := by
  cases i
  case reserved8 | reserved9 | reserved10 => rfl
  all_goals simp only [Instr.operands, checkCells_map_cons, checkCells_map_nil]
  case addRegReg | subRegReg | moveRegReg =>
    obtain ⟨h1, h2, -⟩ := h
    exact (cell_bind_regId h1 _).trans (congrArg _ (funext fun _ => cell_bind_regId h2 _))
  case addMemReg | subMemReg | moveMemReg =>
    obtain ⟨h1, h2, -⟩ := h
    exact (cell_bind_memCheck h1 _).trans (congrArg _ (funext fun _ => cell_bind_regId h2 _))
  case addRegMem | subRegMem | moveRegMem =>
    obtain ⟨h1, h2, -⟩ := h
    exact (cell_bind_regId h1 _).trans (congrArg _ (funext fun _ => cell_bind_memCheck h2 _))
  case addImmMem | subImmMem =>
    obtain ⟨h1, h2, -⟩ := h
    exact (cell_bind h1 _).trans (congrArg _ (funext fun _ => cell_bind_memCheck h2 _))
  case moveImmReg =>
    obtain ⟨h1, h2, -⟩ := h
    exact (cell_bind h1 _).trans (congrArg _ (funext fun _ => cell_bind_regId h2 _))
  case ldi =>
    obtain ⟨h1, h2, -⟩ := h
    exact (cell_bind_regId h1 _).trans (congrArg _ (funext fun _ => cell_bind h2 _))
  case incReg => exact cell_bind_regId h.1 _
  case incMem => exact cell_bind_memCheck h.1 _
  case jmp | jn | jz | jnz => exact cell_bind h.1 _
  case jeq | jgt | jlw =>
    obtain ⟨h1, h2, h3, -⟩ := h
    exact (cell_bind_regId h1 _).trans (congrArg _ (funext fun _ =>
      (cell_bind_regId h2 _).trans (congrArg _ (funext fun _ => cell_bind h3 _))))

/-- Reading the opcode cell and following the rule of its instruction is the instruction's meaning. -/
theorem rule_eq_meaning {m : Arch} {i : Instr} (h : m.CellsHold 0 i.cells) :
    (m.cell 0 >>= fun _ => m.rule i) = m.meaning i := by
  obtain ⟨h0, hrest⟩ := h
  rw [cell_bind h0, Arch.meaning, Instr.cells, checkCells_map_cons, rule_eq hrest]

end Sys2Proof.Machine
end

section
/-! SUPPORT. What the operand protocols and the endings of the microprograms do to the architectural state
(40_micro_operations R131 to R133, 47_microprograms R230): the lemmas that a microprogram's meaning is composed
of. -/

namespace Sys2Proof.Machine

open Sys2Proof.Config

/-! ### The architectural view of the state operations -/

theorem setReg_arch (s : State) (r : Reg) (v : Int) : (s.setReg r v).arch = s.arch.setReg r v := by
  cases r <;> rfl

theorem openFlags_if_arch (s : State) (sets : Bool) :
    (if sets then s.openFlags else s).arch = s.arch.flagged sets (freeFlags s.freeCount) := by
  cases sets <;> rfl

theorem openRegisterResult_arch {s : State} {b : Int} {r : Reg} (hr : regOfId s.params b = some r) (sets : Bool) :
    (s.openRegisterResult sets b).arch =
      (s.arch.flagged sets (freeFlags s.freeCount)).setReg r (s.openWord .aluResult) := by
  rw [State.openRegisterResult, hr, ← openFlags_if_arch, ← setReg_arch]

theorem openMemoryResult_arch (s : State) (sets : Bool) (a : Int) :
    (s.openMemoryResult sets a).arch =
      (s.arch.flagged sets (freeFlags s.freeCount)).setMemory a (s.openWord .aluResult) := by
  cases sets <;> rfl

theorem openBranch_arch (s : State) (t n : Int) :
    (s.openBranch t n).arch = { s.arch with pc := if freeBranch s.freeCount then t else n } := rfl

/-! ### A run from the start of an instruction -/

/-- The machine `u` has walked to cell `k` of the instruction that `s` started, and has changed nothing else of
the architectural state. -/
structure Walked (s : State) (k : Nat) (u : State) : Prop where
  arch : u.arch = { s.arch with pc := s.arch.cellAddress k }
  phase : u.phase = .idle
  freeCount : u.freeCount = s.freeCount

/-- A run of transactions within the instruction that `s` started does what a check of cells answers: it ends in a
state with `Q`, or it raises the event there, and only `pc` has changed. -/
def Meets (s : State) (check : RuleRun Unit) (Q : State → Prop) (r : Run) : Prop :=
  match check with
  | .ok _ => ∃ u, r = .ok u ∧ Q u
  | .error (f, pc) => ∃ u, r = .error (f, u) ∧ u.arch = { s.arch with pc := pc } ∧ u.phase = .idle

theorem Meets.imp {s : State} {check : RuleRun Unit} {Q Q' : State → Prop} {r : Run} (h : Meets s check Q r)
    (hQ : ∀ u, Q u → Q' u) : Meets s check Q' r := by
  cases check with
  | ok _ =>
    obtain ⟨u, hr, hu⟩ := h
    exact ⟨u, hr, hQ u hu⟩
  | error e => exact h

section
variable {s u : State} {k : Nat}

theorem Walked.of_eq {v : State} (h : Walked s k u) (ha : v.arch = u.arch) (hp : v.phase = u.phase)
    (hc : v.freeCount = u.freeCount) : Walked s k v :=
  ⟨ha.trans h.arch, hp.trans h.phase, hc.trans h.freeCount⟩

theorem Walked.params (h : Walked s k u) : u.params = s.params := congrArg Arch.params h.arch
theorem Walked.gpr (h : Walked s k u) : u.gpr = s.gpr := congrArg Arch.gpr h.arch
theorem Walked.flags (h : Walked s k u) : u.flags = s.flags := congrArg Arch.flags h.arch
theorem Walked.mem (h : Walked s k u) : u.mem = s.mem := congrArg Arch.mem h.arch
theorem Walked.pc (h : Walked s k u) : u.pc = s.arch.cellAddress k := congrArg Arch.pc h.arch

/-- The next cell's address (30_encoding R90). -/
theorem Walked.nextAddress (h : Walked s k u) : u.toWord (u.pc + 1) = s.arch.cellAddress (k + 1) := by
  rw [State.toWord, h.params, h.pc]
  change wrap s.params.xlen (wrap s.params.xlen (s.pc + k) + 1) = wrap s.params.xlen (s.pc + (k + 1 : Nat))
  rw [wrap_wrap_add, add_assoc]
  rfl

theorem Walked.pcAdvanced (h : Walked s k u) : Walked s (k + 1) u.pcAdvanced := by
  refine ⟨?_, h.phase, h.freeCount⟩
  rw [← h.nextAddress]
  exact congrArg (fun m : Arch => { m with pc := u.toWord (u.pc + 1) }) h.arch

/-- The last advance of an instruction, after any change that leaves `pc` alone. -/
theorem Walked.advance_one (h : Walked s k u) : u.arch.advance 1 = s.arch.advance (k + 1) := by
  have hpc : u.arch.cellAddress 1 = s.arch.cellAddress (k + 1) := h.nextAddress
  rw [Arch.advance, hpc, h.arch]
  rfl

/-- The word on a bus that a walked register gives: PC has moved (70_reset_and_hazards R314). -/
theorem Walked.getReg (h : Walked s k u) (r : Reg) : u.getReg r = s.arch.moveSource u.ir k r := by
  cases r with
  | gpr i => exact congrArg (fun g : List Int => g.getD i 0) h.gpr
  | pc => exact h.pc
  | ir => rfl
  | flags => exact congrArg flagsToWord h.flags

variable {cs : List (CellKind × Int)} {Q : State → Prop} {rest : List Transaction} {c : Int}

/-! ### The operand protocols (R133) -/

/-- After `PCADV` and the read of the cell there, whose word is `c`. -/
def State.atNextCell (u : State) (c : Int) : State := { u.pcAdvanced with extbus := c }

theorem Walked.atNextCell (h : Walked s k u) (c : Int) : Walked s (k + 1) (u.atNextCell c) :=
  h.pcAdvanced.of_eq rfl rfl rfl

/-- The same, and the register that the word names is selected. -/
def State.atRegCell (u : State) (c : Int) (r : Reg) : State := { u.atNextCell c with sel := r }

theorem Walked.atRegCell (h : Walked s k u) (c : Int) (r : Reg) : Walked s (k + 1) (u.atRegCell c r) :=
  h.pcAdvanced.of_eq rfl rfl rfl

/-- The same, and the word is latched as the address of a store. -/
def State.atLatchedCell (u : State) (c : Int) : State := { u.atNextCell c with latch := c, phase := .latched }

/-- Reading an operand cell; what its word is used for comes after. -/
theorem meets_cell (kind : CellKind) (hu : Walked s k u)
    (h : Meets s (if kind.valid s.params c then s.arch.checkCells (k + 2) cs
        else .error (kind.fault c, s.arch.cellAddress (k + 1))) Q
        (runTransactions rest (u.atNextCell c))) :
    Meets s (s.arch.checkCells (k + 1) ((kind, c) :: cs)) Q
      (runTransactions (immOperand (.cellRead c) ++ rest) u) := by
  rw [run_immOperand_given, hu.nextAddress, hu.params]
  by_cases hr : inRange s.params (s.arch.cellAddress (k + 1)) = true
  · rw [if_pos hr, checkCells_cons_of_inRange hr]
    exact h
  · rw [if_neg hr, checkCells_cons_of_not_inRange hr]
    exact ⟨_, rfl, (hu.atNextCell _).arch, hu.phase⟩

theorem meets_immOperand {kind : CellKind} (hkind : kind.valid s.params c = true) (hu : Walked s k u)
    (h : Meets s (s.arch.checkCells (k + 2) cs) Q (runTransactions rest (u.atNextCell c))) :
    Meets s (s.arch.checkCells (k + 1) ((kind, c) :: cs)) Q
      (runTransactions (immOperand (.cellRead c) ++ rest) u) :=
  meets_cell kind hu (by rwa [if_pos hkind])

theorem run_selLoad (s : State) (rest : List Transaction) :
    runTransactions (.selLoad :: rest) s =
      match regOfId s.params s.extbus with
      | some r => runTransactions rest { s with sel := r }
      | none => .error (.registerIdOutOfRange s.extbus, s) := by
  simp only [runTransactions, Transaction.apply, State.selectorLoad, State.busGet]
  cases regOfId s.params s.extbus <;> rfl

theorem meets_regOperand (hu : Walked s k u)
    (h : ∀ r, regOfId s.params c = some r →
      Meets s (s.arch.checkCells (k + 2) cs) Q (runTransactions rest (u.atRegCell c r))) :
    Meets s (s.arch.checkCells (k + 1) ((.reg, c) :: cs)) Q
      (runTransactions (regOperand (.cellRead c) ++ rest) u) := by
  have hw := hu.atNextCell c
  have e : regOperand (.cellRead c) ++ rest = immOperand (.cellRead c) ++ (.selLoad :: rest) := by
    simp [regOperand, immOperand]
  rw [e]
  refine meets_cell .reg hu ?_
  rw [run_selLoad, valid_reg, ← hw.params]
  cases hr : regOfId (u.atNextCell c).params c with
  | some r =>
    rw [show (u.atNextCell c).extbus = c from rfl, hr]
    exact h r (hw.params ▸ hr)
  | none =>
    rw [show (u.atNextCell c).extbus = c from rfl, hr]
    exact ⟨_, rfl, hw.arch, hw.phase⟩

theorem meets_memSource (hu : Walked s k u)
    (h : Meets s (s.arch.checkCells (k + 2) cs) Q
        (runTransactions rest (u.atNextCell (s.arch.memory c)))) :
    Meets s (s.arch.checkCells (k + 1) ((.mem, c) :: cs)) Q
      (runTransactions (memSource (.cellRead c) ++ rest) u) := by
  have hw := hu.atNextCell c
  have e : memSource (.cellRead c) ++ rest = immOperand (.cellRead c) ++ (.memRead :: rest) := by
    simp [memSource, immOperand]
  rw [e]
  refine meets_cell .mem hu ?_
  rw [run_memRead, valid_mem, ← hw.params]
  have hmem : readCell (u.atNextCell c).mem c.toNat = s.arch.memory c :=
    congrArg (fun m => readCell m c.toNat) hw.mem
  by_cases hc : inRange (u.atNextCell c).params c = true
  · rw [if_pos hc, if_pos (by exact hc)]
    rw [← hmem] at h
    exact h
  · rw [if_neg hc, if_neg (by exact hc)]
    exact ⟨_, rfl, hw.arch, hw.phase⟩

theorem meets_memDestination (hu : Walked s k u)
    (h : inRange s.params c = true →
      Meets s (s.arch.checkCells (k + 2) cs) Q
        (runTransactions rest (u.atLatchedCell c))) :
    Meets s (s.arch.checkCells (k + 1) ((.mem, c) :: cs)) Q
      (runTransactions (memDestination (.cellRead c) ++ rest) u) := by
  have hw := hu.atNextCell c
  have e : memDestination (.cellRead c) ++ rest = immOperand (.cellRead c) ++ (.memStore :: rest) := by
    simp [memDestination, immOperand]
  rw [e]
  refine meets_cell .mem hu ?_
  rw [run_memStore_idle _ _ hw.phase, valid_mem, ← hw.params]
  by_cases hc : inRange (u.atNextCell c).params c = true
  · rw [if_pos hc, if_pos (by exact hc)]
    exact h (hw.params ▸ hc)
  · rw [if_neg hc, if_neg (by exact hc)]
    exact ⟨_, rfl, hw.arch, hw.phase⟩

end

/-! ### Sources of the ALU, parked in slot 0 (R230 (b)) -/

/-- An operand cell that names no register but a general-purpose one. -/
def plainOperand (P : Params) : CellKind → Int → Prop
  | .reg, c => namesSpecial P c = false
  | .mem, _ | .imm, _ | .addr, _ => True

/-- A general-purpose register gives its own word. -/
theorem operand_reg_of_plain {m : Arch} {c : Int} {r : Reg} (hr : regOfId m.params c = some r)
    (hc : namesSpecial m.params c = false) : ∃ i, r = .gpr i ∧ m.operand .reg c = m.gpr.getD i 0 := by
  obtain ⟨i, -, rfl⟩ := gpr_of_not_special hr hc
  exact ⟨i, rfl, by rw [Arch.operand, named_eq hr]; rfl⟩

/-- The transactions `src` read an operand cell of a kind and park what it stands for in slot 0. -/
def Parks (kind : CellKind) (src : Transaction → List Transaction) : Prop :=
  ∀ {s u : State} {k : Nat} {c : Int} {cs : List (CellKind × Int)} {Q : State → Prop} {rest : List Transaction},
    Walked s k u →
    (∀ v, Walked s (k + 1) v → (plainOperand s.params kind c → v.slot0 = s.arch.operand kind c) →
      Meets s (s.arch.checkCells (k + 2) cs) Q (runTransactions rest v)) →
    Meets s (s.arch.checkCells (k + 1) ((kind, c) :: cs)) Q (runTransactions (src (.cellRead c) ++ rest) u)

theorem parks_regToSlot0 : Parks .reg regToSlot0 := by
  intro s u k c cs Q rest hu h
  rw [regToSlot0, List.append_assoc]
  refine meets_regOperand hu fun r hr => ?_
  have hw := hu.atRegCell c r
  refine h (((State.busPut _ (internalBus r) _).aluStore .slot0)) (hw.of_eq ?_ ?_ ?_) fun hc => ?_
  · simp [State.aluStore]
  · simp [State.aluStore]
  · simp [State.aluStore]
  · obtain ⟨i, rfl, hi⟩ := operand_reg_of_plain (m := s.arch) hr hc
    rw [hi]
    exact hw.getReg (.gpr i)

theorem parks_memToSlot0 : Parks .mem memToSlot0 := by
  intro s u k c cs Q rest hu h
  rw [memToSlot0, List.append_assoc, List.append_assoc]
  exact meets_memSource hu (h _ ((hu.atNextCell (s.arch.memory c)).of_eq rfl rfl rfl) fun _ => rfl)

theorem parks_immToSlot0 : Parks .imm immToSlot0 := by
  intro s u k c cs Q rest hu h
  rw [immToSlot0, List.append_assoc, List.append_assoc]
  exact meets_immOperand rfl hu (h _ ((hu.atNextCell c).of_eq rfl rfl rfl) fun _ => rfl)

end Sys2Proof.Machine
end

section
/-! SUPPORT. The endings of the microprograms, from the last operand cell on. -/

namespace Sys2Proof.Machine

open Sys2Proof.Config

/-! ### Endings of the ALU instructions -/

/-- After the transactions `tail` the register the selector names holds `op x y`, where `x` was in slot 0 and `y` in
that register, the flags may be set, and `pc` has advanced. Where the register is PC, IR or Flags, its word and the
flags are in doubt (70_reset_and_hazards R313). -/
def RegisterEnding (P : Params) (sets : Bool) (op : Int → Int → Int) (tail : List Transaction) : Prop :=
  ∀ v : State, v.params = P → ∃ u f w, runTransactions tail v = .ok u ∧ u.phase = v.phase ∧
    u.freeCount = v.freeCount ∧ u.arch = ((v.arch.flagged sets f).advance 1).setReg v.sel w ∧
    ∀ i, v.sel = .gpr i → w = v.toWord (op v.slot0 (v.gpr.getD i 0)) ∧ f = flagsOf P w

/-- After the transactions `tail` the latched cell holds `op x y`, where `x` was in slot 0 and `y` in that cell, the
flags may be set, and `pc` has advanced. -/
def MemoryEnding (P : Params) (sets : Bool) (op : Int → Int → Int) (tail : List Transaction) : Prop :=
  ∀ v : State, v.params = P → v.phase = .latched → v.latch = v.extbus → inRange P v.extbus = true →
    ∃ u w, runTransactions tail v = .ok u ∧ u.phase = .idle ∧ u.freeCount = v.freeCount ∧
      w = v.toWord (op v.slot0 (readCell v.mem v.extbus.toNat)) ∧
      u.arch = ((v.arch.flagged sets (flagsOf P w)).setMemory v.extbus w).advance 1

/-- The flag derivation of an instruction that sets the flags or does not. -/
def flagDerivation (sets : Bool) (b : Bus) : List Transaction := if sets then [.deriveFlags b] else []

theorem addFlags_eq (P : Params) (b : Bus) : addFlags P b = flagDerivation P.addUpdatesFlags b := rfl

/-- The word on internal bus 1 goes into a general-purpose register, and its flags into Flags; PC, IR and Flags as
destinations take another word. -/
theorem run_storeResult (sets : Bool) (v : State) : ∃ u w,
    runTransactions (flagDerivation sets .int1 ++ ([.rfInternalStore] ++ pcadv)) v = .ok u ∧ u.phase = v.phase ∧
      u.freeCount = v.freeCount ∧
      u.arch = ((v.arch.flagged sets (flagsOf v.params v.intbus1)).advance 1).setReg v.sel w ∧
      ∀ i, v.sel = .gpr i → w = v.intbus1 := by
  obtain ⟨params, gpr, pc, ir, flags, mem, status, extbus, intbus1, intbus2, slot0, slot1, aluop, sel, latch, phase,
    freeCount⟩ := v
  cases sets
  all_goals
    cases sel with
    | gpr i => exact ⟨_, intbus1, rfl, rfl, rfl, rfl, fun _ _ => rfl⟩
    | pc => exact ⟨_, _, rfl, rfl, rfl, rfl, nofun⟩
    | ir => exact ⟨_, intbus2, rfl, rfl, rfl, rfl, nofun⟩
    | flags => exact ⟨_, intbus2, rfl, rfl, rfl, rfl, nofun⟩

/-- The transactions `compute` leave `op x y` on internal bus 1, where `x` was in slot 0 and `y` in the selected
register, if that is general-purpose; otherwise some word. -/
def Computes (op : Int → Int → Int) (compute : List Transaction) : Prop :=
  ∀ (v : State) (rest : List Transaction), ∃ v', runTransactions (compute ++ rest) v = runTransactions rest v' ∧
    v'.arch = v.arch ∧ v'.sel = v.sel ∧ v'.phase = v.phase ∧ v'.freeCount = v.freeCount ∧
    ∀ i, v.sel = .gpr i → v'.intbus1 = v.toWord (op v.slot0 (v.gpr.getD i 0))

/-- The result computed, the flags derived, the register written, and the last advance. -/
def registerTail (sets : Bool) (compute : List Transaction) : List Transaction :=
  compute ++ (flagDerivation sets .int1 ++ ([.rfInternalStore] ++ pcadv))

theorem registerEnding_of_computes {op : Int → Int → Int} {compute : List Transaction} (h : Computes op compute)
    (P : Params) (sets : Bool) : RegisterEnding P sets op (registerTail sets compute) := by
  rintro v rfl
  obtain ⟨v', hrun, harch, hsel, hphase, hcount, hresult⟩ := h v (flagDerivation sets .int1 ++ ([.rfInternalStore] ++ pcadv))
  obtain ⟨u, w, hrun', hphase', hcount', harch', hw⟩ := run_storeResult sets v'
  have hparams : v'.params = v.params := congrArg Arch.params harch
  refine ⟨u, flagsOf v.params v'.intbus1, w, hrun.trans hrun', hphase'.trans hphase, hcount'.trans hcount, ?_,
    fun i hi => ?_⟩
  · rw [harch', harch, hsel, hparams]
  · obtain rfl := hw i (hsel.trans hi)
    exact ⟨hresult i hi, rfl⟩

/-- The sum of `add` into a register (R231). -/
def addOnBus1 : List Transaction := [.rfInternalRead, .aluStore .slot1, .aluCommand .add, .aluRead .slot1]

/-- The difference of `sub` from a register (R235). -/
def subOnBus1 : List Transaction := [.rfInternalRead, .aluInternalRead .slot0, .aluStore .slot0,
  .aluInternalStore .slot1, .aluCommand .sub, .aluRead .slot1]

/-- The difference of a compare jump (R249): the comparand in slot 0 comes first. -/
def differenceOnBus1 : List Transaction := [.rfInternalRead, .aluStore .slot1, .aluCommand .sub, .aluRead .slot1]

/-- The successor of `inc` (R243). -/
def incOnBus1 : List Transaction := [.rfInternalRead, .aluStore .slot1, .aluCommand .inc, .aluRead .slot1]

theorem computes_add : Computes (fun x y => y + x) addOnBus1 := by
  rintro ⟨params, gpr, pc, ir, flags, mem, status, extbus, intbus1, intbus2, slot0, slot1, aluop, sel, latch, phase,
    freeCount⟩ rest
  cases sel with
  | gpr i => exact ⟨_, rfl, rfl, rfl, rfl, rfl, fun j hj => by cases hj; exact congrArg (wrap _) (add_comm _ _)⟩
  | pc | ir | flags => exact ⟨_, rfl, rfl, rfl, rfl, rfl, nofun⟩

theorem computes_sub : Computes (fun x y => y - x) subOnBus1 := by
  rintro ⟨params, gpr, pc, ir, flags, mem, status, extbus, intbus1, intbus2, slot0, slot1, aluop, sel, latch, phase,
    freeCount⟩ rest
  cases sel with
  | gpr i => exact ⟨_, rfl, rfl, rfl, rfl, rfl, fun j hj => by cases hj; rfl⟩
  | pc | ir | flags => exact ⟨_, rfl, rfl, rfl, rfl, rfl, nofun⟩

theorem computes_difference : Computes (fun x y => x - y) differenceOnBus1 := by
  rintro ⟨params, gpr, pc, ir, flags, mem, status, extbus, intbus1, intbus2, slot0, slot1, aluop, sel, latch, phase,
    freeCount⟩ rest
  cases sel with
  | gpr i => exact ⟨_, rfl, rfl, rfl, rfl, rfl, fun j hj => by cases hj; rfl⟩
  | pc | ir | flags => exact ⟨_, rfl, rfl, rfl, rfl, rfl, nofun⟩

theorem computes_inc : Computes (fun _ y => y + 1) incOnBus1 := by
  rintro ⟨params, gpr, pc, ir, flags, mem, status, extbus, intbus1, intbus2, slot0, slot1, aluop, sel, latch, phase,
    freeCount⟩ rest
  cases sel with
  | gpr i => exact ⟨_, rfl, rfl, rfl, rfl, rfl, fun j hj => by cases hj; rfl⟩
  | pc | ir | flags => exact ⟨_, rfl, rfl, rfl, rfl, rfl, nofun⟩

/-- The word on internal bus 2 goes into the latched cell, and its flags into Flags. -/
theorem run_storeResultToMemory (sets : Bool) {v : State} (hv : v.phase = .latched) : ∃ u,
    runTransactions (flagDerivation sets .int2 ++ (bridgeOut ++ ([.memStore] ++ pcadv))) v = .ok u ∧
      u.phase = .idle ∧ u.freeCount = v.freeCount ∧
      u.arch = ((v.arch.flagged sets (flagsOf v.params v.intbus2)).setMemory v.latch v.intbus2).advance 1 := by
  obtain ⟨params, gpr, pc, ir, flags, mem, status, extbus, intbus1, intbus2, slot0, slot1, aluop, sel, latch, phase,
    freeCount⟩ := v
  obtain rfl : phase = .latched := hv
  cases sets <;> exact ⟨_, rfl, rfl, rfl, rfl⟩

/-- The transactions `compute` leave `op x y` on internal bus 2, where `x` was in slot 0 and `y` on the external
bus. -/
def ComputesFromBus (op : Int → Int → Int) (compute : List Transaction) : Prop :=
  ∀ (v : State) (rest : List Transaction), ∃ v', runTransactions (compute ++ rest) v = runTransactions rest v' ∧
    v'.arch = v.arch ∧ v'.latch = v.latch ∧ v'.phase = v.phase ∧ v'.freeCount = v.freeCount ∧
    v'.intbus2 = v.toWord (op v.slot0 v.extbus)

/-- The cell read, the result computed, the flags derived, the cell written, and the last advance. -/
def memoryTail (sets : Bool) (compute : List Transaction) : List Transaction :=
  .memRead :: (compute ++ (flagDerivation sets .int2 ++ (bridgeOut ++ ([.memStore] ++ pcadv))))

theorem memoryEnding_of_computes {op : Int → Int → Int} {compute : List Transaction} (h : ComputesFromBus op compute)
    (P : Params) (sets : Bool) : MemoryEnding P sets op (memoryTail sets compute) := by
  rintro v rfl hphase hlatch hr
  obtain ⟨v', hrun, harch, hlatch', hphase', hcount, hresult⟩ :=
    h { v with extbus := readCell v.mem v.extbus.toNat } (flagDerivation sets .int2 ++ (bridgeOut ++ ([.memStore] ++ pcadv)))
  obtain ⟨u, hrun', hidle, hcount', harch'⟩ := run_storeResultToMemory sets (hphase'.trans hphase)
  have hparams : v'.params = v.params := congrArg Arch.params harch
  refine ⟨u, v'.intbus2, ?_, hidle, hcount'.trans hcount, hresult, ?_⟩
  · rw [memoryTail, run_memRead, if_pos hr, hrun, hrun']
  · rw [harch', harch, hlatch', hparams, ← hlatch]
    rfl

/-- The sum of `add` into memory (R233). -/
def addOnBus2 : List Transaction := [.regStore .ir, .regInternalRead .ir, .aluInternalStore .slot1,
  .aluCommand .add, .aluInternalRead .slot1]

/-- The difference of `sub` from memory (R237). -/
def subOnBus2 : List Transaction := [.regStore .ir, .regInternalRead .ir, .aluRead .slot0,
  .aluInternalStore .slot0, .aluStore .slot1, .aluCommand .sub, .aluInternalRead .slot1]

/-- The successor of `inc` in memory (R244). -/
def incOnBus2 : List Transaction := [.regStore .ir, .regInternalRead .ir, .aluInternalStore .slot1,
  .aluCommand .inc, .aluInternalRead .slot1]

theorem computesFromBus_add : ComputesFromBus (fun x y => y + x) addOnBus2 := by
  intro v rest
  simp only [addOnBus2, List.cons_append, List.nil_append, run_regStore, run_irInternalRead, setReg_ir_ir,
    run_aluInternalStore_slot1, run_aluCommand, run_aluInternalRead_slot1]
  exact ⟨_, rfl, rfl, rfl, rfl, rfl, congrArg (wrap _) (add_comm _ _)⟩

theorem computesFromBus_sub : ComputesFromBus (fun x y => y - x) subOnBus2 := by
  intro v rest
  simp only [subOnBus2, List.cons_append, List.nil_append, run_regStore, run_irInternalRead, setReg_ir_ir,
    run_aluRead_slot0, run_aluInternalStore_slot0, run_aluStore_slot1,
    run_aluCommand, run_aluInternalRead_slot1]
  exact ⟨_, rfl, rfl, rfl, rfl, rfl, rfl⟩

theorem computesFromBus_inc : ComputesFromBus (fun _ y => y + 1) incOnBus2 := by
  intro v rest
  simp only [incOnBus2, List.cons_append, List.nil_append, run_regStore, run_irInternalRead, setReg_ir_ir,
    run_aluInternalStore_slot1, run_aluCommand, run_aluInternalRead_slot1]
  exact ⟨_, rfl, rfl, rfl, rfl, rfl, rfl⟩

end Sys2Proof.Machine
end

section
/-! SUPPORT. Each microprogram checks the cells of its instruction and then has the instruction's effect. -/

namespace Sys2Proof.Machine

open Sys2Proof.Config

/-! ### What a completed instruction leaves -/

/-- The architectural state that instruction `i` leaves where its cells are valid. -/
def State.outcome (s : State) (i : Instr) : Arch :=
  if s.leavesOpen i then s.arch.openEffect s.freeCount i else s.arch.effect i

/-- The microprogram of `i` has run from `s` to `u`, and with the open results settled the outcome is that of `i`. -/
structure Settled (s : State) (i : Instr) (u : State) : Prop where
  phase : u.phase = .idle
  arch : (s.settledBy i u).arch = s.outcome i

theorem Settled.of_cases {s u : State} {i : Instr} (hphase : u.phase = .idle)
    (hopen : s.leavesOpen i = true → (s.openedBy i u).arch = s.arch.openEffect s.freeCount i)
    (hclosed : s.leavesOpen i = false → u.arch = s.arch.effect i) : Settled s i u := by
  refine ⟨hphase, ?_⟩
  rw [State.settledBy, State.outcome]
  cases h : s.leavesOpen i with
  | true => exact hopen h
  | false => exact hclosed h

/-- An instruction that never leaves a result open. -/
theorem Settled.of_closed {s u : State} {i : Instr} (hclosed : s.leavesOpen i = false) (hphase : u.phase = .idle)
    (harch : u.arch = s.arch.effect i) : Settled s i u :=
  Settled.of_cases hphase (fun h => by rw [hclosed] at h; cases h) fun _ => harch

theorem run_of_no_test (body : List Transaction) (s : State) :
    (Microprogram.mk body none).run s = runTransactions body s := by
  rw [Microprogram.run]
  cases runTransactions body s <;> rfl

/-! ### ALU instructions with a register destination -/

/-- A second word and second flags replace the first. -/
theorem setReg_flagged_setReg (m : Arch) (sets : Bool) (n : Nat) (r : Reg) (f g : FlagBits) (w x : Int) :
    ((((m.flagged sets f).advance n).setReg r w).flagged sets g).setReg r x =
      ((m.flagged sets g).advance n).setReg r x := by
  cases r with
  | gpr i => cases sets <;> simp [Arch.flagged, Arch.advance, Arch.setReg, Arch.cellAddress, Arch.wrap]
  | pc | ir | flags => cases sets <;> rfl

section
variable {s u : State} {k : Nat} {sets : Bool} {op : Int → Int → Int} {tail : List Transaction}

theorem Walked.flagged_advance (h : Walked s k u) (sets : Bool) (f : FlagBits) :
    (u.arch.flagged sets f).advance 1 = (s.arch.flagged sets f).advance (k + 1) := by
  have h1 := h.advance_one
  cases sets with
  | false => exact h1
  | true => exact congrArg (fun m : Arch => { m with flags := f }) h1

theorem Walked.flagged_setMemory_advance (h : Walked s k u) (sets : Bool) (f : FlagBits) (d w : Int) :
    ((u.arch.flagged sets f).setMemory d w).advance 1 = ((s.arch.flagged sets f).setMemory d w).advance (k + 1) :=
  congrArg (·.setMemory d w) (h.flagged_advance sets f)

theorem openWord_eq {v : State} (hparams : v.params = s.params) (hcount : v.freeCount = s.freeCount)
    (place : OpenWord) : v.openWord place = s.arch.wrap (freeWord place s.freeCount) := by
  rw [State.openWord, State.toWord, hparams, hcount]
  rfl

/-- What an ALU instruction leaves in a register destination `b` that comes after cell `k`, with `x` in slot 0. -/
structure RegisterResult (s : State) (k : Nat) (sets : Bool) (op : Int → Int → Int) (x b : Int) (u : State) :
    Prop where
  phase : u.phase = .idle
  opened : (u.openRegisterResult sets b).arch = s.arch.openIntoRegister sets (k + 2) b s.freeCount
  closed : namesSpecial s.params b = false →
    u.arch = s.arch.aluIntoRegister sets (k + 2) b (s.arch.wrap (op x (s.arch.operand .reg b)))

theorem meets_registerDestination (hend : RegisterEnding s.params sets op tail) (hu : Walked s k u) (b : Int) :
    Meets s (s.arch.checkCells (k + 1) [(.reg, b)]) (RegisterResult s k sets op u.slot0 b)
      (runTransactions (regOperand (.cellRead b) ++ tail) u) := by
  refine meets_regOperand hu fun r hr => ?_
  have hw := hu.atRegCell b r
  obtain ⟨v, f, w, hrun, hphase, hcount, harch, hresult⟩ := hend _ hw.params
  rw [hw.flagged_advance sets f, show (u.atRegCell b r).sel = r from rfl] at harch
  have hparams : v.params = s.params := by
    have := congrArg Arch.params harch
    cases sets <;> cases r <;> exact this
  refine ⟨v, hrun, hphase.trans hw.phase, ?_, fun hb => ?_⟩
  · rw [openRegisterResult_arch (hparams ▸ hr), harch, setReg_flagged_setReg,
      openWord_eq hparams (hcount.trans hw.freeCount), hcount, hw.freeCount, Arch.openIntoRegister, named_eq hr]
  · obtain ⟨i, rfl, hi⟩ := operand_reg_of_plain (m := s.arch) hr hb
    obtain ⟨rfl, rfl⟩ := hresult i rfl
    rw [harch, State.toWord, hw.params, hw.gpr, Arch.aluIntoRegister, named_eq hr, hi]
    rfl

/-- An ALU instruction with a source in slot 0 and a register destination. -/
theorem meets_aluRegister {i : Instr} {kind : CellKind} {src : Transaction → List Transaction} {a b : Int}
    (hsrc : Parks kind src) (hend : RegisterEnding s.params sets op tail) (hu : Walked s 0 u)
    (hplain : s.leavesOpen i = false → plainOperand s.params kind a ∧ namesSpecial s.params b = false)
    (hopened : ∀ v, s.openedBy i v = v.openRegisterResult sets b)
    (hopenEffect : s.arch.openEffect s.freeCount i = s.arch.openIntoRegister sets 3 b s.freeCount)
    (heffect : s.arch.effect i =
      s.arch.aluIntoRegister sets 3 b (s.arch.wrap (op (s.arch.operand kind a) (s.arch.operand .reg b)))) :
    Meets s (s.arch.checkCells 1 [(kind, a), (.reg, b)]) (Settled s i)
      (runTransactions (src (.cellRead a) ++ (regOperand (.cellRead b) ++ tail)) u) := by
  refine hsrc hu fun v hv hslot => (meets_registerDestination hend hv b).imp fun w hw => ?_
  refine Settled.of_cases hw.phase (fun _ => ?_) fun hclosed => ?_
  · rw [hopened, hw.opened, hopenEffect]
  · obtain ⟨ha, hb⟩ := hplain hclosed
    rw [hw.closed hb, heffect, hslot ha]

/-! ### ALU instructions with a memory destination -/

/-- What an ALU instruction leaves in a memory destination `d` that comes after cell `k`, with `x` in slot 0. -/
structure MemoryResult (s : State) (k : Nat) (sets : Bool) (op : Int → Int → Int) (x d : Int) (u : State) :
    Prop where
  phase : u.phase = .idle
  opened : (u.openMemoryResult sets d).arch = s.arch.openIntoMemory sets (k + 2) d s.freeCount
  closed : u.arch = s.arch.aluIntoMemory sets (k + 2) d (s.arch.wrap (op x (s.arch.operand .mem d)))

theorem setMemory_flagged_setMemory {m : Arch} (hm : m.mem.wf m.params.memSize = true) {d : Int}
    (hd : inRange m.params d = true) (sets : Bool) (n : Nat) (f g : FlagBits) (w x : Int) :
    ((((m.flagged sets f).setMemory d w).advance n).flagged sets g).setMemory d x =
      ((m.flagged sets g).setMemory d x).advance n := by
  have hww := writeCell_writeCell hm (toNat_lt_of_inRange hd) w x
  cases sets
  · exact congrArg (fun c => ({ m with mem := c } : Arch).advance n) hww
  · exact congrArg (fun c => ({ m with mem := c, flags := g } : Arch).advance n) hww

theorem meets_memoryDestination (hs : Invariant s) (hend : MemoryEnding s.params sets op tail) (hu : Walked s k u)
    (d : Int) :
    Meets s (s.arch.checkCells (k + 1) [(.mem, d)]) (MemoryResult s k sets op u.slot0 d)
      (runTransactions (memDestination (.cellRead d) ++ tail) u) := by
  refine meets_memDestination hu fun hd => ?_
  have hw := hu.atNextCell d
  obtain ⟨v, w, hrun, hphase, hcount, rfl, harch⟩ :=
    hend (u.atLatchedCell d) hw.params rfl rfl hd
  have harch' : v.arch = s.arch.aluIntoMemory sets (k + 2) d (s.arch.wrap (op u.slot0 (s.arch.operand .mem d))) := by
    have hword : (u.atLatchedCell d).toWord (op u.slot0 (readCell (u.atLatchedCell d).mem d.toNat)) =
        s.arch.wrap (op u.slot0 (s.arch.operand .mem d)) := by
      rw [State.toWord, show (u.atLatchedCell d).params = s.params from hw.params,
        show (u.atLatchedCell d).mem = s.mem from hw.mem]
      rfl
    have hstored := hw.flagged_setMemory_advance sets (flagsOf s.params (s.arch.wrap (op u.slot0 (s.arch.operand .mem d))))
      d (s.arch.wrap (op u.slot0 (s.arch.operand .mem d)))
    rw [← hword] at hstored ⊢
    exact harch.trans hstored
  have hparams : v.params = s.params := by
    have := congrArg Arch.params harch'
    cases sets <;> exact this
  refine ⟨v, hrun, hphase, ?_, harch'⟩
  rw [openMemoryResult_arch, harch', Arch.aluIntoMemory, setMemory_flagged_setMemory hs.memory hd,
    openWord_eq hparams (hcount.trans hw.freeCount), hcount,
    show (u.atLatchedCell d).freeCount = s.freeCount from hw.freeCount, Arch.openIntoMemory]

/-- An ALU instruction with a source in slot 0 and a memory destination. -/
theorem meets_aluMemory {i : Instr} {kind : CellKind} {src : Transaction → List Transaction} {a d : Int}
    (hs : Invariant s) (hsrc : Parks kind src) (hend : MemoryEnding s.params sets op tail) (hu : Walked s 0 u)
    (hplain : s.leavesOpen i = false → plainOperand s.params kind a)
    (hopened : s.leavesOpen i = true → (∀ v, s.openedBy i v = v.openMemoryResult sets d) ∧
      s.arch.openEffect s.freeCount i = s.arch.openIntoMemory sets 3 d s.freeCount)
    (heffect : s.arch.effect i =
      s.arch.aluIntoMemory sets 3 d (s.arch.wrap (op (s.arch.operand kind a) (s.arch.operand .mem d)))) :
    Meets s (s.arch.checkCells 1 [(kind, a), (.mem, d)]) (Settled s i)
      (runTransactions (src (.cellRead a) ++ (memDestination (.cellRead d) ++ tail)) u) := by
  refine hsrc hu fun v hv hslot => (meets_memoryDestination hs hend hv d).imp fun w hw => ?_
  refine Settled.of_cases hw.phase (fun hopen => ?_) fun hclosed => ?_
  · obtain ⟨hby, heff⟩ := hopened hopen
    rw [hby, hw.opened, heff]
  · rw [hw.closed, heffect, hslot (hplain hclosed)]

end

/-! ### Moves -/

section
variable {s u : State} {k : Nat}

/-- The word on the external bus goes into the selected register, and `pc` advances: after a store into PC, from
the word stored (70_reset_and_hazards R314). -/
theorem run_rfStore_pcadv (hu : Walked s 2 u) : ∃ v, runTransactions ([.rfStore] ++ pcadv) u = .ok v ∧
    v.phase = .idle ∧ v.arch = s.arch.moveInto u.sel u.extbus := by
  refine ⟨(u.setReg u.sel u.extbus).pcAdvanced, by rw [List.singleton_append, run_rfStore, run_pcadv], ?_, ?_⟩
  · exact (setReg_phase u u.sel u.extbus).trans hu.phase
  · have hadv := hu.advance_one
    cases hsel : u.sel with
    | gpr i => exact congrArg (·.setReg (.gpr i) u.extbus) hadv
    | pc =>
      have hword : u.toWord (u.extbus + 1) = s.arch.wrap (u.extbus + 1) := by rw [State.toWord, hu.params]; rfl
      change { u.arch with pc := u.toWord (u.extbus + 1) } = _
      rw [hword, hu.arch]
      rfl
    | ir => exact hadv
    | flags => exact congrArg (·.setReg .flags u.extbus) hadv

/-- The last lines of the moves into a register. -/
theorem meets_moveIntoRegister (hu : Walked s 1 u) (b : Int) :
    Meets s (s.arch.checkCells 2 [(.reg, b)])
      (fun v => v.phase = .idle ∧ v.arch = s.arch.moveInto (s.arch.named b) u.ir)
      (runTransactions (moveIntoRegister (.cellRead b)) u) := by
  rw [moveIntoRegister, List.append_assoc]
  refine meets_regOperand hu fun r hr => ?_
  have hw : Walked s 2 { u.atRegCell b r with extbus := u.ir } := (hu.atRegCell b r).of_eq rfl rfl rfl
  obtain ⟨v, hrun, hphase, harch⟩ := run_rfStore_pcadv hw
  exact ⟨v, hrun, hphase, by rw [named_eq hr]; exact harch⟩

end

end Sys2Proof.Machine
end

section
/-! SUPPORT. Each microprogram of the table (47_microprograms R231 to R252) checks the cells of its instruction and
then has the instruction's effect. -/

namespace Sys2Proof.Machine

open Sys2Proof.Config

/-! ### add, sub and inc: the parts of their microprograms -/

theorem addIntoRegister_eq (P : Params) (read : Transaction) :
    addIntoRegister P read = regOperand read ++ registerTail P.addUpdatesFlags addOnBus1 := by
  simp only [addIntoRegister, addFlags_eq, registerTail, addOnBus1, List.append_assoc]

theorem subFromRegister_eq (read : Transaction) :
    subFromRegister read = regOperand read ++ registerTail true subOnBus1 := rfl

theorem incRegProgram_eq (cells : CellReader) :
    incRegProgram cells = ⟨regOperand (cells 1) ++ registerTail true incOnBus1, none⟩ := rfl

theorem addIntoMemory_eq (P : Params) (read : Transaction) :
    addIntoMemory P read = memDestination read ++ memoryTail P.addUpdatesFlags addOnBus2 := by
  simp only [addIntoMemory, addFlags_eq, memoryTail, List.append_assoc]
  rfl

theorem subFromMemory_eq (read : Transaction) :
    subFromMemory read = memDestination read ++ memoryTail true subOnBus2 := rfl

theorem incMemProgram_eq (cells : CellReader) :
    incMemProgram cells = ⟨memDestination (cells 1) ++ memoryTail true incOnBus2, none⟩ := rfl

/-! ### Conditional endings -/

section
variable {s u : State} {k : Nat}

/-- The ending of a conditional jump (R246, R249). -/
theorem run_chosenEnding (hu : Walked s k u) (taken : Bool) : ∃ v,
    runTransactions (chosenEnding taken) u = .ok v ∧ v.phase = .idle ∧ v.freeCount = s.freeCount ∧
      v.arch = s.arch.jumpIf taken u.extbus (k + 1) := by
  cases taken with
  | true => exact ⟨{ u with pc := u.extbus }, rfl, hu.phase, hu.freeCount,
      congrArg (fun m : Arch => { m with pc := u.extbus }) hu.arch⟩
  | false =>
    have hw := hu.pcAdvanced
    exact ⟨u.pcAdvanced, run_pcadv u, hw.phase, hw.freeCount, hw.arch⟩

/-- The test of a conditional jump after its body: where `A` holds its decision is `decision`. -/
theorem meets_conditional {check : RuleRun Unit} {body : List Transaction} {test : Test} {t : Int} {A : Prop}
    {decision : Bool}
    (h : Meets s check (fun v => Walked s k v ∧ v.extbus = t ∧ (A → test.holds v = decision)) (runTransactions body u)) :
    Meets s check (fun v => v.phase = .idle ∧ v.freeCount = s.freeCount ∧
      ∃ taken, v.arch = s.arch.jumpIf taken t (k + 1) ∧ (A → taken = decision))
      ((Microprogram.mk body (some test)).run u) := by
  rw [Microprogram.run]
  cases check with
  | ok _ =>
    obtain ⟨v, hrun, hv, rfl, htest⟩ := h
    obtain ⟨w, hrun', hphase, hcount, harch⟩ := run_chosenEnding hv (test.holds v)
    exact ⟨w, by rw [hrun]; exact hrun', hphase, hcount, _, harch, htest⟩
  | error e =>
    obtain ⟨v, hrun, hv⟩ := h
    exact ⟨v, by rw [hrun], hv⟩

/-- A jump on a flag. -/
theorem meets_flagJump {i : Instr} {test : Test} {t : Int} {decision : Bool} (hu : Walked s 0 u)
    (hclosed : s.leavesOpen i = false) (htest : ∀ v, Walked s 1 v → test.holds v = decision)
    (heffect : s.arch.effect i = s.arch.jumpIf decision t 2) :
    Meets s (s.arch.checkCells 1 [(.addr, t)]) (Settled s i)
      ((Microprogram.mk (immOperand (.cellRead t)) (some test)).run u) := by
  have hbody : Meets s (s.arch.checkCells 1 [(.addr, t)])
      (fun v => Walked s 1 v ∧ v.extbus = t ∧ (True → test.holds v = decision))
      (runTransactions (immOperand (.cellRead t)) u) := by
    rw [← List.append_nil (immOperand _)]
    have hw := hu.atNextCell t
    exact meets_immOperand rfl hu ⟨_, rfl, hw, rfl, fun _ => htest _ hw⟩
  refine (meets_conditional hbody).imp fun v ⟨hphase, _, taken, harch, htaken⟩ => ?_
  exact Settled.of_closed hclosed hphase (by rw [harch, htaken trivial, heffect])

/-- The difference of the comparands on internal bus 1, the target on the external bus (R249). -/
theorem meets_compareBody (hu : Walked s 0 u) (op a b t : Int) :
    Meets s (s.arch.checkCells 1 [(.reg, a), (.reg, b), (.addr, t)])
      (fun v => Walked s 3 v ∧ v.extbus = t ∧ (namesSpecial s.params a = false ∧ namesSpecial s.params b = false →
        v.intbus1 = s.arch.wrap (s.arch.operand .reg a - s.arch.operand .reg b)))
      (runTransactions (compareBody (givenCells [op, a, b, t])) u) := by
  have e : compareBody (givenCells [op, a, b, t]) = regToSlot0 (.cellRead a) ++
      (regOperand (.cellRead b) ++ (differenceOnBus1 ++ (immOperand (.cellRead t) ++ []))) := rfl
  rw [e]
  refine parks_regToSlot0 hu fun v hv hslot => meets_regOperand hv fun r hr => ?_
  have hvr := hv.atRegCell b r
  obtain ⟨w, hrun, harch, -, hphase, hcount, hresult⟩ :=
    computes_difference (v.atRegCell b r) (immOperand (.cellRead t) ++ [])
  have hw : Walked s 2 w := hvr.of_eq harch hphase hcount
  rw [hrun]
  refine meets_immOperand rfl hw ⟨_, rfl, hw.atNextCell t, rfl, fun ⟨ha, hb⟩ => ?_⟩
  obtain ⟨i, rfl, hi⟩ := operand_reg_of_plain (m := s.arch) hr hb
  have hdiff := hresult i rfl
  rw [State.toWord, hvr.params, hvr.gpr, show (v.atRegCell b (.gpr i)).slot0 = _ from hslot ha] at hdiff
  rw [hi]
  exact hdiff

/-- A compare jump. -/
theorem meets_compareJump {i : Instr} {test : Test} {a b t : Int} {F : Int → Bool} (hu : Walked s 0 u) (op : Int)
    (hplain : s.leavesOpen i = false → namesSpecial s.params a = false ∧ namesSpecial s.params b = false)
    (htest : ∀ v, test.holds v = F v.intbus1)
    (hopened : ∀ v, s.openedBy i v = v.openBranch t (v.toWord (s.pc + 4)))
    (hopenEffect : s.arch.openEffect s.freeCount i = s.arch.jumpIf (freeBranch s.freeCount) t 4)
    (heffect : s.arch.effect i =
      s.arch.jumpIf (F (s.arch.wrap (s.arch.operand .reg a - s.arch.operand .reg b))) t 4) :
    Meets s (s.arch.checkCells 1 [(.reg, a), (.reg, b), (.addr, t)]) (Settled s i)
      ((Microprogram.mk (compareBody (givenCells [op, a, b, t])) (some test)).run u) := by
  have hbody := (meets_compareBody hu op a b t).imp (Q' := fun v => Walked s 3 v ∧ v.extbus = t ∧
      (namesSpecial s.params a = false ∧ namesSpecial s.params b = false →
        test.holds v = F (s.arch.wrap (s.arch.operand .reg a - s.arch.operand .reg b))))
    fun v ⟨hv, hext, hdiff⟩ => ⟨hv, hext, fun hp => by rw [htest, hdiff hp]⟩
  refine (meets_conditional hbody).imp fun v ⟨hphase, hcount, taken, harch, htaken⟩ => ?_
  refine Settled.of_cases hphase (fun _ => ?_) fun hclosed => ?_
  · have hparams : v.params = s.params := by
      have := congrArg Arch.params harch
      cases taken <;> exact this
    rw [hopened, hopenEffect, openBranch_arch, State.toWord, hparams, hcount, harch]
    cases taken <;> cases freeBranch s.freeCount <;> rfl
  · rw [harch, htaken (hplain hclosed), heffect]

end

end Sys2Proof.Machine
end

section
/-! SUPPORT. What `exec` does to the architectural state: the cells of the instruction are checked in order, and then
it has its effect, or what the spec leaves open of it. -/

namespace Sys2Proof.Machine

open Sys2Proof.Config

section
variable {s u : State}

/-- An instruction that leaves nothing open routes general-purpose registers alone to the ALU. -/
theorem not_special_of_closed {i : Instr} (h : s.leavesOpen i = false) {v : Int} (hv : v ∈ aluRegisters i) :
    namesSpecial s.params v = false := by
  rw [State.leavesOpen, Bool.or_eq_false_iff] at h
  simpa using List.any_eq_false.1 h.1 v hv

/-- `move` between registers, up to the word in IR. -/
theorem meets_moveRegReg (hu : Walked s 0 u) (hir : u.ir = 13) (a b : Int) :
    Meets s (s.arch.checkCells 1 [(.reg, a), (.reg, b)]) (Settled s (.moveRegReg a b))
      (runTransactions (regOperand (.cellRead a) ++ ([.rfRead, .regStore .ir] ++ moveIntoRegister (.cellRead b))) u) := by
  refine meets_regOperand hu fun r hr => ?_
  have hw := hu.atRegCell a r
  have hword : (u.atRegCell a r).getReg r = s.arch.moveSource 13 1 (s.arch.named a) := by
    rw [hw.getReg r, named_eq hr, show (u.atRegCell a r).ir = 13 from hir]
  refine (meets_moveIntoRegister (u := (State.registerStore { u.atRegCell a r with extbus := (u.atRegCell a r).getReg r } .ir))
    (hw.of_eq rfl rfl rfl) b).imp fun v ⟨hphase, harch⟩ => ?_
  refine Settled.of_closed rfl hphase ?_
  rw [harch, Arch.effect, ← hword]
  rfl

/-- The selected register's word goes into the latched cell, and `pc` advances. -/
theorem run_rfRead_memStore_pcadv {v : State} (hv : v.phase = .latched) : ∃ w,
    runTransactions ([.rfRead, .memStore] ++ pcadv) v = .ok w ∧ w.phase = .idle ∧
      w.arch = (v.arch.setMemory v.latch (v.getReg v.sel)).advance 1 := by
  obtain ⟨params, gpr, pc, ir, flags, mem, status, extbus, intbus1, intbus2, slot0, slot1, aluop, sel, latch, phase,
    freeCount⟩ := v
  obtain rfl : phase = .latched := hv
  exact ⟨_, rfl, rfl, rfl⟩

theorem meets_moveRegMem (hu : Walked s 0 u) (hir : u.ir = 12) (a d : Int) :
    Meets s (s.arch.checkCells 1 [(.reg, a), (.mem, d)]) (Settled s (.moveRegMem a d))
      (runTransactions (regOperand (.cellRead a) ++ (memDestination (.cellRead d) ++ ([.rfRead, .memStore] ++ pcadv))) u) := by
  refine meets_regOperand hu fun r hr => meets_memDestination (hu.atRegCell a r) fun hd => ?_
  have hw := (hu.atRegCell a r).atNextCell d
  have hword : ((u.atRegCell a r).atLatchedCell d).getReg r = s.arch.moveSource 12 2 (s.arch.named a) := by
    rw [named_eq hr, ← show ((u.atRegCell a r).atNextCell d).ir = 12 from hir, ← hw.getReg r]
    cases r <;> rfl
  obtain ⟨v, hrun, hphase, harch⟩ := run_rfRead_memStore_pcadv (v := (u.atRegCell a r).atLatchedCell d) rfl
  refine ⟨v, hrun, Settled.of_closed rfl hphase ?_⟩
  rw [harch, show ((u.atRegCell a r).atLatchedCell d).sel = r from rfl, hword]
  exact hw.flagged_setMemory_advance false 0 d _

theorem meets_moveMemReg (hu : Walked s 0 u) (a b : Int) :
    Meets s (s.arch.checkCells 1 [(.mem, a), (.reg, b)]) (Settled s (.moveMemReg a b))
      (runTransactions (memSource (.cellRead a) ++ ([.regStore .ir] ++ moveIntoRegister (.cellRead b))) u) :=
  meets_memSource hu ((meets_moveIntoRegister (u := (u.atNextCell (s.arch.memory a)).registerStore .ir)
    ((hu.atNextCell (s.arch.memory a)).of_eq rfl rfl rfl) b).imp fun _ ⟨hphase, harch⟩ =>
      Settled.of_closed rfl hphase harch)

theorem meets_moveImmReg (hu : Walked s 0 u) (x b : Int) :
    Meets s (s.arch.checkCells 1 [(.imm, x), (.reg, b)]) (Settled s (.moveImmReg x b))
      (runTransactions (immOperand (.cellRead x) ++ ([.regStore .ir] ++ moveIntoRegister (.cellRead b))) u) :=
  meets_immOperand rfl hu ((meets_moveIntoRegister (u := (u.atNextCell x).registerStore .ir)
    ((hu.atNextCell x).of_eq rfl rfl rfl) b).imp fun _ ⟨hphase, harch⟩ => Settled.of_closed rfl hphase harch)

theorem meets_ldi (hu : Walked s 0 u) (a x : Int) :
    Meets s (s.arch.checkCells 1 [(.reg, a), (.imm, x)]) (Settled s (.ldi a x))
      (runTransactions (regOperand (.cellRead a) ++ (immOperand (.cellRead x) ++ ([.rfStore] ++ pcadv))) u) := by
  refine meets_regOperand hu fun r hr => ?_
  have hw := hu.atRegCell a r
  obtain ⟨v, hrun, hphase, harch⟩ := run_rfStore_pcadv (hw.atNextCell x)
  refine meets_immOperand rfl hw ⟨v, hrun, Settled.of_closed rfl hphase ?_⟩
  rw [harch, Arch.effect, named_eq hr]
  rfl

theorem meets_incReg (hu : Walked s 0 u) (a : Int) :
    Meets s (s.arch.checkCells 1 [(.reg, a)]) (Settled s (.incReg a))
      (runTransactions (regOperand (.cellRead a) ++ registerTail true incOnBus1) u) := by
  refine (meets_registerDestination (registerEnding_of_computes computes_inc s.params true) hu a).imp fun v hv => ?_
  refine Settled.of_cases hv.phase (fun _ => hv.opened) fun hclosed => hv.closed ?_
  exact not_special_of_closed hclosed (.head _)

theorem meets_incMem (hs : Invariant s) (hu : Walked s 0 u) (d : Int) :
    Meets s (s.arch.checkCells 1 [(.mem, d)]) (Settled s (.incMem d))
      (runTransactions (memDestination (.cellRead d) ++ memoryTail true incOnBus2) u) :=
  (meets_memoryDestination hs (memoryEnding_of_computes computesFromBus_inc s.params true) hu d).imp fun _ hv =>
    Settled.of_closed rfl hv.phase hv.closed

theorem meets_jmp (hu : Walked s 0 u) (t : Int) :
    Meets s (s.arch.checkCells 1 [(.addr, t)]) (Settled s (.jmp t))
      (runTransactions (immOperand (.cellRead t) ++ [.regStore .pc]) u) := by
  have hw := hu.atNextCell t
  refine meets_immOperand rfl hu ⟨{ u.atNextCell t with pc := t }, rfl, Settled.of_closed rfl hw.phase ?_⟩
  exact congrArg (fun m : Arch => { m with pc := t }) hw.arch

/-- The microprogram of the table runs the instruction. -/
theorem microprogram_meets (hs : Invariant s) {i : Instr} {p : CellReader → Microprogram}
    (hp : microprogram s.params i.opcode = some p) (hu : Walked s 0 u) (hir : u.ir = i.opcode) :
    Meets s (s.arch.checkCells 1 i.operands) (Settled s i) ((p (givenCells (encode i))).run u) := by
  have hadd := registerEnding_of_computes computes_add s.params s.params.addUpdatesFlags
  have hsub := registerEnding_of_computes computes_sub s.params true
  have haddMem := memoryEnding_of_computes computesFromBus_add s.params s.params.addUpdatesFlags
  have hsubMem := memoryEnding_of_computes computesFromBus_sub s.params true
  have first {i : Instr} {a : Int} {rest : List Int} (he : aluRegisters i = a :: rest)
      (h : s.leavesOpen i = false) : namesSpecial s.params a = false :=
    not_special_of_closed h (he ▸ .head _)
  have second {i : Instr} {a b : Int} {rest : List Int} (he : aluRegisters i = a :: b :: rest)
      (h : s.leavesOpen i = false) : namesSpecial s.params b = false :=
    not_special_of_closed h (he ▸ .tail _ (.head _))
  cases i <;> cases hp
  case addRegReg a b =>
    rw [addRegRegProgram, run_of_no_test, addIntoRegister_eq]
    exact meets_aluRegister parks_regToSlot0 hadd hu (fun h => ⟨first rfl h, second rfl h⟩) (fun _ => rfl) rfl rfl
  case addMemReg a b =>
    rw [addMemRegProgram, run_of_no_test, addIntoRegister_eq]
    exact meets_aluRegister parks_memToSlot0 hadd hu (fun h => ⟨trivial, first rfl h⟩) (fun _ => rfl) rfl rfl
  case subRegReg a b =>
    rw [subRegRegProgram, run_of_no_test, subFromRegister_eq]
    exact meets_aluRegister parks_regToSlot0 hsub hu (fun h => ⟨first rfl h, second rfl h⟩) (fun _ => rfl) rfl rfl
  case subMemReg a b =>
    rw [subMemRegProgram, run_of_no_test, subFromRegister_eq]
    exact meets_aluRegister parks_memToSlot0 hsub hu (fun h => ⟨trivial, first rfl h⟩) (fun _ => rfl) rfl rfl
  case addRegMem a d =>
    rw [addRegMemProgram, run_of_no_test, addIntoMemory_eq]
    exact meets_aluMemory hs parks_regToSlot0 haddMem hu (first rfl) (fun _ => ⟨fun _ => rfl, rfl⟩) rfl
  case subRegMem a d =>
    rw [subRegMemProgram, run_of_no_test, subFromMemory_eq]
    exact meets_aluMemory hs parks_regToSlot0 hsubMem hu (first rfl) (fun _ => ⟨fun _ => rfl, rfl⟩) rfl
  case addImmMem x d =>
    rw [addImmMemProgram, run_of_no_test, addIntoMemory_eq]
    exact meets_aluMemory hs parks_immToSlot0 haddMem hu (fun _ => trivial) nofun rfl
  case subImmMem x d =>
    rw [subImmMemProgram, run_of_no_test, subFromMemory_eq]
    exact meets_aluMemory hs parks_immToSlot0 hsubMem hu (fun _ => trivial) nofun rfl
  case moveMemReg a b =>
    rw [moveMemRegProgram, run_of_no_test, List.append_assoc]
    exact meets_moveMemReg hu a b
  case moveRegMem a d =>
    rw [moveRegMemProgram, run_of_no_test]
    simp only [List.append_assoc]
    exact meets_moveRegMem hu hir a d
  case moveRegReg a b =>
    rw [moveRegRegProgram, run_of_no_test, List.append_assoc]
    exact meets_moveRegReg hu hir a b
  case moveImmReg x b =>
    rw [moveImmRegProgram, run_of_no_test, List.append_assoc]
    exact meets_moveImmReg hu x b
  case ldi a x =>
    rw [ldiProgram, run_of_no_test]
    simp only [List.append_assoc]
    exact meets_ldi hu a x
  case incReg a =>
    rw [incRegProgram_eq, run_of_no_test]
    exact meets_incReg hu a
  case incMem d =>
    rw [incMemProgram_eq, run_of_no_test]
    exact meets_incMem hs hu d
  case jmp t =>
    rw [jmpProgram, run_of_no_test]
    exact meets_jmp hu t
  case jn t =>
    exact meets_flagJump (decision := negativeFlag s.params s.flags) hu rfl
      (fun v hv => by rw [Test.holds, hv.params, hv.flags]) rfl
  case jz t =>
    exact meets_flagJump (decision := zeroFlag s.params s.flags) hu rfl
      (fun v hv => by rw [Test.holds, hv.params, hv.flags]) rfl
  case jnz t =>
    exact meets_flagJump (decision := nonzeroFlag s.params s.flags) hu rfl
      (fun v hv => by rw [Test.holds, hv.params, hv.flags]) rfl
  case jeq a b t =>
    exact meets_compareJump (F := fun x => decide (x = 0)) hu 21 (fun h => ⟨first rfl h, second rfl h⟩)
      (fun _ => rfl) (fun _ => rfl) rfl rfl
  case jgt a b t =>
    exact meets_compareJump (F := fun x => decide (0 < x)) hu 22 (fun h => ⟨first rfl h, second rfl h⟩)
      (fun _ => rfl) (fun _ => rfl) rfl rfl
  case jlw a b t =>
    exact meets_compareJump (F := fun x => decide (x < 0)) hu 23 (fun h => ⟨first rfl h, second rfl h⟩)
      (fun _ => rfl) (fun _ => rfl) rfl rfl

/-! ### exec -/

theorem openRegisterResult_phase (s : State) (setsFlags : Bool) (b : Int) :
    (s.openRegisterResult setsFlags b).phase = s.phase := by
  rw [State.openRegisterResult]
  split
  · cases setsFlags <;> simp
  · rfl

theorem openMemoryResult_phase (s : State) (setsFlags : Bool) (m : Int) :
    (s.openMemoryResult setsFlags m).phase = s.phase := by
  cases setsFlags <;> rfl

theorem settledBy_phase (s : State) (i : Instr) (u : State) : (s.settledBy i u).phase = u.phase := by
  rw [State.settledBy]
  split
  · cases i <;> simp [State.openedBy, openRegisterResult_phase, openMemoryResult_phase]
  · rfl

theorem invariant_pc_isWord (hs : Invariant s) : isWord s.params.xlen s.pc = true :=
  ((allWords_iff s).1 hs.words).2.1

/-- `pc` is a word, so the opcode cell is the cell at `pc`. -/
theorem cellAddress_zero (hs : Invariant s) : s.arch.cellAddress 0 = s.pc := by
  have h := wrap_of_isWord (Params.one_le_xlen hs.params) (invariant_pc_isWord hs)
  change wrap s.params.xlen (s.pc + (0 : Nat)) = s.pc
  rw [Nat.cast_zero, add_zero, h]

/-- After Fetch and Decode of an opcode cell that holds `c` (40_micro_operations R134, R135). -/
def State.decoded (s : State) (c : Int) : State := { s with extbus := c, ir := c, intbus2 := c }

theorem walked_zero (hs : Invariant s) (c : Int) : Walked s 0 (s.decoded c) := by
  refine ⟨?_, hs.phase, rfl⟩
  rw [cellAddress_zero hs]
  rfl

/-- The Fetch of a cell outside memory (60_exceptions R272 (a)). -/
theorem exec_of_fetch_fault (i : Instr) (hr : ¬ inRange s.params s.pc = true) :
    exec i s = .next (State.raiseFault { s with extbus := s.pc } (.addressOutOfRange s.pc)) := by
  cases hp : microprogram s.params i.opcode with
  | none => rw [exec_of_no_microprogram hp, haltStep, run_fetchDecode_given, if_neg hr]
  | some p =>
    rw [exec_of_microprogram hp, executeWith, instructionStep, givenCells_apply, run_fetchDecode_given, if_neg hr]
    rfl

theorem exec_of_fetch_halt {i : Instr} (hp : microprogram s.params i.opcode = none)
    (hr : inRange s.params s.pc = true) : exec i s = .next (s.decoded i.opcode).halt := by
  rw [exec_of_no_microprogram hp, haltStep, run_fetchDecode_given, if_pos hr]
  rfl

theorem exec_of_fetch_run {i : Instr} {p : CellReader → Microprogram} (hp : microprogram s.params i.opcode = some p)
    (hr : inRange s.params s.pc = true) :
    exec i s = finishStep (((p (givenCells (encode i))).run (s.decoded i.opcode)).map (s.settledBy i)) := by
  have hop : (encode i).getD 0 0 = i.opcode := by cases i <;> rfl
  rw [exec_of_microprogram hp, executeWith, instructionStep, givenCells_apply, hop, run_fetchDecode_given, if_pos hr]
  rfl

theorem outcome_of_no_microprogram {i : Instr} (hp : microprogram s.params i.opcode = none) :
    i.operands = [] ∧ s.outcome i = { s.arch with status := .halted } := by
  cases i
  case reserved8 | reserved9 | reserved10 => exact ⟨rfl, rfl⟩
  all_goals cases hp

/-- Running an instruction from any state of the invariant: its cells are checked in order, opcode cell first, and
then it has its outcome; after an event only `pc` and `status` differ. -/
theorem exec_meaning (hs : Invariant s) (i : Instr) : ∃ t, exec i s = .next t ∧ t.phase = .idle ∧
    t.arch = s.arch.settle ((s.arch.checkCells 0 i.cells).map fun _ => s.outcome i) := by
  have hpc := cellAddress_zero hs
  by_cases hr : inRange s.params s.pc = true
  · have hcheck : s.arch.checkCells 0 i.cells = s.arch.checkCells 1 i.operands :=
      checkCells_cons_of_inRange (hpc.symm ▸ hr) .imm i.opcode i.operands
    rw [hcheck]
    cases hp : microprogram s.params i.opcode with
    | none =>
      obtain ⟨hoperands, houtcome⟩ := outcome_of_no_microprogram hp
      rw [hoperands, houtcome]
      exact ⟨_, exec_of_fetch_halt hp hr, hs.phase, rfl⟩
    | some p =>
      have hmeets := microprogram_meets hs hp (walked_zero hs i.opcode) rfl
      rw [exec_of_fetch_run hp hr]
      cases hc : s.arch.checkCells 1 i.operands with
      | ok x =>
        rw [hc] at hmeets
        obtain ⟨v, hrun, hv⟩ := hmeets
        rw [hrun]
        exact ⟨_, rfl, (settledBy_phase s i v).trans hv.phase, hv.arch⟩
      | error e =>
        rw [hc] at hmeets
        obtain ⟨v, hrun, harch, hphase⟩ := hmeets
        rw [hrun]
        exact ⟨_, rfl, hphase, congrArg (fun m : Arch => { m with status := .fault e.1 }) harch⟩
  · rw [Instr.cells, checkCells_cons_of_not_inRange (hpc.symm ▸ hr), hpc, exec_of_fetch_fault i hr]
    exact ⟨_, rfl, hs.phase, rfl⟩

end

end Sys2Proof.Machine
end

section
/-! SUPPORT. What one step of the machine does, said once: `step_running` gives the architectural state it leaves,
`StepEffect` the cases of it. -/

namespace Sys2Proof.Machine

open Sys2Proof.Config

/-! ### The instruction at `pc` -/

section
variable {s t : State} {i : Instr}

theorem instructionAtPc_eq_some_iff : s.instructionAtPc = some i ↔
    inRange s.params s.pc = true ∧ ∃ rest, s.streamCells = encode i ++ rest := by
  rw [State.instructionAtPc]
  by_cases hr : inRange s.params s.pc = true
  · rw [if_pos hr, and_iff_right hr]
    cases hd : decode s.streamCells with
    | ok d =>
      obtain ⟨j, rest⟩ := d
      refine ⟨fun h => ?_, fun ⟨rest', h⟩ => ?_⟩
      · cases h
        exact ⟨rest, eq_encode_append_of_decode hd⟩
      · rw [h, decode_encode_append] at hd
        cases hd
        rfl
    | error e =>
      refine ⟨nofun, fun ⟨rest', h⟩ => ?_⟩
      rw [h, decode_encode_append] at hd
      cases hd
  · rw [if_neg hr]
    exact ⟨nofun, fun h => absurd h.1 hr⟩

theorem streamCells_eq_cons (hr : inRange s.params s.pc = true) : s.streamCells =
    [readCell s.mem s.pc.toNat, s.streamCell 1, s.streamCell 2, s.streamCell 3] :=
  congrArg (· :: _) (if_pos hr)

/-- A cell in memory that starts no instruction is no opcode. -/
theorem opcode_outside_of_none (h : s.instructionAtPc = none) (hr : inRange s.params s.pc = true) :
    readCell s.mem s.pc.toNat < 0 ∨ 24 < readCell s.mem s.pc.toNat := by
  by_contra hv
  obtain ⟨i, rest, hd, -⟩ := decode_four_cells (v := readCell s.mem s.pc.toNat) (by omega) (by omega)
    (s.streamCell 1) (s.streamCell 2) (s.streamCell 3)
  rw [← streamCells_eq_cons hr] at hd
  rw [instructionAtPc_eq_some_iff.2 ⟨hr, rest, eq_encode_append_of_decode hd⟩] at h
  cases h

theorem instructionAtPc_eq_none_of_outside
    (hv : readCell s.mem s.pc.toNat < 0 ∨ 24 < readCell s.mem s.pc.toNat) : s.instructionAtPc = none := by
  rw [State.instructionAtPc]
  split
  · rw [streamCells_eq_cons ‹_›, decode_of_outside hv]
  · rfl

theorem streamCell_of_instructionAtPc (h : s.instructionAtPc = some i) {k : Nat} (hk : k < i.length) :
    s.streamCell k = (encode i).getD k 0 := by
  obtain ⟨-, rest, hcells⟩ := instructionAtPc_eq_some_iff.1 h
  have hlen : k < 4 := by
    have := congrArg List.length hcells
    rw [List.length_append, show s.streamCells.length = 4 from rfl] at this
    exact lt_of_lt_of_le hk (this ▸ Nat.le_add_right _ _)
  have hget : s.streamCells.getD k 0 = s.streamCell k := by
    interval_cases k <;> rfl
  rw [← hget, hcells, List.getD_append _ _ _ _ hk]

theorem invariant_toWord_pc (hs : Invariant s) : s.toWord s.pc = s.pc :=
  wrap_of_isWord (Params.one_le_xlen hs.params) (invariant_pc_isWord hs)

/-- The instruction at `pc` lies there in memory. -/
theorem holds_of_instructionAtPc (hs : Invariant s) (h : s.instructionAtPc = some i) : s.holds i := by
  intro k hk hr
  have hcell := streamCell_of_instructionAtPc h hk
  rwa [State.streamCell, cellAddress_eq (invariant_toWord_pc hs), if_pos hr] at hcell

/-! ### The step -/

theorem step_of_some (hrun : s.status = .running) (h : s.instructionAtPc = some i) : step s = exec i s := by
  simp [step, hrun, h]

theorem step_of_none (hrun : s.status = .running) (h : s.instructionAtPc = none) : step s = execUnmatched s := by
  simp [step, hrun, h]

theorem step_of_not_running (h : s.status ≠ .running) : step s = .next s := by
  rw [step]
  cases hst : s.status
  case running => exact absurd hst h
  all_goals rfl

theorem execUnmatched_of_inRange (hr : inRange s.params s.pc = true) :
    execUnmatched s = .next (s.decoded (readCell s.mem s.pc.toNat)).halt := by
  rw [execUnmatched, haltStep, run_fetchDecode (readsAs_memRead _ _), if_pos hr]
  rfl

theorem execUnmatched_of_not_inRange (hr : ¬ inRange s.params s.pc = true) :
    execUnmatched s = .next (State.raiseFault { s with extbus := s.pc } (.addressOutOfRange s.pc)) := by
  rw [execUnmatched, haltStep, run_fetchDecode (readsAs_memRead _ _), if_neg hr]

/-- The architectural state that a step of a running machine leaves. -/
def State.stepOutcome (s : State) : Arch :=
  match s.instructionAtPc with
  | some i => s.arch.settle ((s.arch.checkCells 0 i.cells).map fun _ => s.outcome i)
  | none =>
    if inRange s.params s.pc then { s.arch with status := .halted }
    else { s.arch with status := .fault (.addressOutOfRange s.pc) }

theorem stepOutcome_of_some (h : s.instructionAtPc = some i) :
    s.stepOutcome = s.arch.settle ((s.arch.checkCells 0 i.cells).map fun _ => s.outcome i) := by
  rw [State.stepOutcome, h]

theorem stepOutcome_of_none_of_inRange (h : s.instructionAtPc = none) (hr : inRange s.params s.pc = true) :
    s.stepOutcome = { s.arch with status := .halted } := by
  rw [State.stepOutcome, h]
  exact if_pos hr

theorem stepOutcome_of_none_of_not_inRange (h : s.instructionAtPc = none) (hr : ¬ inRange s.params s.pc = true) :
    s.stepOutcome = { s.arch with status := .fault (.addressOutOfRange s.pc) } := by
  rw [State.stepOutcome, h]
  exact if_neg hr

theorem step_running (hs : Invariant s) (hrun : s.status = .running) :
    ∃ t, step s = .next t ∧ t.phase = .idle ∧ t.arch = s.stepOutcome := by
  cases hi : s.instructionAtPc with
  | some i =>
    rw [step_of_some hrun hi, stepOutcome_of_some hi]
    exact exec_meaning hs i
  | none =>
    rw [step_of_none hrun hi]
    by_cases hr : inRange s.params s.pc = true
    · rw [execUnmatched_of_inRange hr, stepOutcome_of_none_of_inRange hi hr]
      exact ⟨_, rfl, hs.phase, rfl⟩
    · rw [execUnmatched_of_not_inRange hr, stepOutcome_of_none_of_not_inRange hi hr]
      exact ⟨_, rfl, hs.phase, rfl⟩

/-- What a step can do to the architectural state. -/
inductive StepEffect (s : State) : Arch → Prop
  /-- a machine that is HALTED or in FAULT does nothing -/
  | terminal (h : s.status ≠ .running) : StepEffect s s.arch
  /-- the word at `pc` is no opcode -/
  | halt (hrun : s.status = .running) (h : s.instructionAtPc = none) :
      StepEffect s { s.arch with status := .halted }
  /-- a bad word at the opcode cell, or at a cell of the instruction -/
  | fault (hrun : s.status = .running) (f : Fault) (k : Nat) (hcause : f.hasCause s.params)
      (hk : match s.instructionAtPc with
        | some i => k < i.length
        | none => k = 0) :
      StepEffect s { s.arch with pc := s.arch.cellAddress k, status := .fault f }
  /-- an instruction runs to its end -/
  | run (hrun : s.status = .running) (i : Instr) (h : s.instructionAtPc = some i)
      (hcells : s.arch.checkCells 0 i.cells = .ok ()) : StepEffect s (s.outcome i)

theorem stepOutcome_effect (hs : Invariant s) (hrun : s.status = .running) : StepEffect s s.stepOutcome := by
  cases hi : s.instructionAtPc with
  | some i =>
    rw [stepOutcome_of_some hi]
    cases hc : s.arch.checkCells 0 i.cells with
    | ok x => exact .run hrun i hi hc
    | error e =>
      obtain ⟨⟨k, hk, hpc⟩, hcause⟩ := checkCells_error hc
      rw [Nat.zero_add] at hpc
      rw [length_cells] at hk
      have hfault := StepEffect.fault hrun e.1 k hcause (by rw [hi]; exact hk)
      rwa [← hpc] at hfault
  | none =>
    by_cases hr : inRange s.params s.pc = true
    · exact stepOutcome_of_none_of_inRange hi hr ▸ .halt hrun hi
    · rw [stepOutcome_of_none_of_not_inRange hi hr]
      have hfault := StepEffect.fault hrun (.addressOutOfRange s.pc) 0 (Bool.eq_false_iff.2 hr) (by rw [hi])
      rwa [cellAddress_zero hs] at hfault

/-- The inversion of a step. -/
theorem stepsTo_effect (hs : Invariant s) (h : StepsTo s t) : t.phase = .idle ∧ StepEffect s t.arch := by
  rw [StepsTo] at h
  by_cases hrun : s.status = .running
  · obtain ⟨u, hu, hphase, harch⟩ := step_running hs hrun
    cases hu.symm.trans h
    exact ⟨hphase, harch ▸ stepOutcome_effect hs hrun⟩
  · cases (step_of_not_running hrun).symm.trans h
    exact ⟨hs.phase, .terminal hrun⟩

end

/-! ### Steps without a premise -/

/-- Settles O3. -/
theorem stepRunsTheDecodedInstruction : Obligations.StepRunsTheDecodedInstruction := by
  unfold Obligations.StepRunsTheDecodedInstruction
  exact fun s i rest hrun hr hd =>
    step_of_some hrun (instructionAtPc_eq_some_iff.2 ⟨hr, rest, eq_encode_append_of_decode hd⟩)

/-- Settles O4. -/
theorem terminalStatesDoNothing : Obligations.TerminalStatesDoNothing := by
  unfold Obligations.TerminalStatesDoNothing
  exact fun s h => step_of_not_running h

theorem exec_next (i : Instr) (s : State) : ∃ t, exec i s = .next t := by
  cases hp : microprogram s.params i.opcode with
  | none => exact exec_of_no_microprogram hp ▸ haltStep_next _ s
  | some p => exact exec_of_microprogram hp ▸ finishStep_next _

/-- Settles O45. -/
theorem everyStepHasANextState : Obligations.EveryStepHasANextState := by
  unfold Obligations.EveryStepHasANextState StepsTo
  intro s
  by_cases hrun : s.status = .running
  · cases hi : s.instructionAtPc with
    | some i => exact step_of_some hrun hi ▸ exec_next i s
    | none => exact step_of_none hrun hi ▸ haltStep_next _ s
  · exact ⟨s, step_of_not_running hrun⟩

/-! ### The parameters -/

theorem runTransactions_params_eq (ts : List Transaction) (s : State) :
    (runState (runTransactions ts s)).params = s.params := by
  obtain ⟨hok, herror⟩ := runTransactions_params (ts := ts) (s := s)
  cases h : runTransactions ts s with
  | ok u => exact hok u h
  | error e => exact herror e.1 e.2 h

theorem microprogram_run_params (p : Microprogram) (s : State) : (runState (p.run s)).params = s.params := by
  have hb := runTransactions_params_eq p.body s
  rw [Microprogram.run]
  cases e : runTransactions p.body s with
  | error e₁ => rwa [e] at hb
  | ok s₁ =>
    rw [e] at hb
    cases p.test with
    | none => exact hb
    | some t => exact (runTransactions_params_eq _ s₁).trans hb

theorem openRegisterResult_params (s : State) (setsFlags : Bool) (b : Int) :
    (s.openRegisterResult setsFlags b).params = s.params := by
  rw [State.openRegisterResult]
  split
  · cases setsFlags <;> simp
  · rfl

theorem openMemoryResult_params (s : State) (setsFlags : Bool) (m : Int) :
    (s.openMemoryResult setsFlags m).params = s.params := by
  cases setsFlags <;> rfl

theorem settledBy_params (s : State) (i : Instr) (u : State) : (s.settledBy i u).params = u.params := by
  rw [State.settledBy]
  split
  · cases i <;> simp [State.openedBy, openRegisterResult_params, openMemoryResult_params]
  · rfl

theorem finishStep_params {r : Run} {t : State} (h : finishStep r = .next t) : t.params = (runState r).params := by
  rcases r with ⟨f, u⟩ | u <;> cases h <;> rfl

theorem exec_params {s t : State} {i : Instr} (h : exec i s = .next t) : t.params = s.params := by
  by_cases hr : inRange s.params s.pc = true
  · cases hp : microprogram s.params i.opcode with
    | none =>
      rw [exec_of_fetch_halt hp hr] at h
      cases h
      rfl
    | some p =>
      rw [exec_of_fetch_run hp hr] at h
      have hrun := microprogram_run_params (p (givenCells (encode i))) (s.decoded i.opcode)
      rw [finishStep_params h]
      cases e : (p (givenCells (encode i))).run (s.decoded i.opcode) with
      | ok u =>
        rw [e] at hrun
        exact (settledBy_params s i u).trans hrun
      | error e₁ =>
        rw [e] at hrun
        exact hrun
  · rw [exec_of_fetch_fault i hr] at h
    cases h
    rfl

/-- Settles O60. -/
theorem stepsKeepTheParameters : Obligations.StepsKeepTheParameters := by
  unfold Obligations.StepsKeepTheParameters StepsTo
  intro s t h
  by_cases hrun : s.status = .running
  · cases hi : s.instructionAtPc with
    | some i => exact exec_params (step_of_some hrun hi ▸ h)
    | none =>
      rw [step_of_none hrun hi] at h
      by_cases hr : inRange s.params s.pc = true
      · rw [execUnmatched_of_inRange hr] at h
        cases h
        rfl
      · rw [execUnmatched_of_not_inRange hr] at h
        cases h
        rfl
  · cases (step_of_not_running hrun).symm.trans h
    rfl

end Sys2Proof.Machine
end

section
/-! SUPPORT. The claims about every step, from what a step can do (`StepEffect`). -/

namespace Sys2Proof.Machine

open Sys2Proof.Config

/-! ### The step follows the rules of the spec -/

section
variable {s : State} {i : Instr}

theorem execute_of_outside (m : Arch) {v : Int} (hv : v < 0 ∨ 24 < v) :
    m.execute v = .ok { m with status := .halted } := by
  unfold Arch.execute
  split
  case h_23 => rfl
  all_goals omega

theorem outcome_of_closed (h : s.leavesOpen i = false) : s.outcome i = s.arch.effect i := by
  rw [State.outcome, h]
  rfl

/-- Following the rule of the opcode in memory is the meaning of the instruction that lies there. -/
theorem cell_bind_execute {m : Arch} (h : m.CellsHold 0 i.cells) : (m.cell 0 >>= m.execute) = m.meaning i := by
  rw [← rule_eq_meaning h, cell_bind h.1, cell_bind h.1, execute_opcode]

theorem arch_step_running (hs : Invariant s) (hrun : s.status = .running) (hclosed : s.leavesResultOpen = false) :
    Arch.step s.arch = s.stepOutcome := by
  have hpc := cellAddress_zero hs
  have hstep : Arch.step s.arch = s.arch.settle (s.arch.cell 0 >>= s.arch.execute) := by
    rw [Arch.step, show s.arch.status = .running from hrun]
  rw [hstep]
  cases hi : s.instructionAtPc with
  | some i =>
    have hopen : s.leavesOpen i = false := by simpa [State.leavesResultOpen, hi] using hclosed
    rw [cell_bind_execute (cellsHold_of_holds (holds_of_instructionAtPc hs hi)), Arch.meaning,
      stepOutcome_of_some hi, outcome_of_closed hopen]
  | none =>
    rw [Arch.cell, hpc]
    by_cases hr : inRange s.params s.pc = true
    · rw [if_pos (by exact hr), stepOutcome_of_none_of_inRange hi hr]
      change s.arch.settle (s.arch.execute (readCell s.mem s.pc.toNat)) = _
      rw [execute_of_outside s.arch (opcode_outside_of_none hi hr)]
      rfl
    · rw [if_neg (by exact hr), stepOutcome_of_none_of_not_inRange hi hr]
      rfl

theorem arch_step_of_not_running (hrun : s.status ≠ .running) : Arch.step s.arch = s.arch := by
  rw [Arch.step]
  cases hst : s.arch.status
  case running => exact absurd hst hrun
  all_goals rfl

/-- Settles O46. -/
theorem stepRefinesTheInstructionRules : Obligations.StepRefinesTheInstructionRules := by
  unfold Obligations.StepRefinesTheInstructionRules StepsTo
  intro s hs hclosed
  by_cases hrun : s.status = .running
  · obtain ⟨t, ht, -, harch⟩ := step_running hs hrun
    exact ⟨t, ht, by rw [harch, arch_step_running hs hrun hclosed]⟩
  · exact ⟨s, step_of_not_running hrun, (arch_step_of_not_running hrun).symm⟩

end

/-! ### The step depends on the architectural state alone -/

section
variable {s s' : State} (h : s.arch = s'.arch)
include h

theorem instructionAtPc_congr : s.instructionAtPc = s'.instructionAtPc := by
  have hP : s.params = s'.params := congrArg Arch.params h
  have hpc : s.pc = s'.pc := congrArg Arch.pc h
  have hmem : s.mem = s'.mem := congrArg Arch.mem h
  have haddr : ∀ k, s.cellAddress k = s'.cellAddress k := by
    intro k
    induction k with
    | zero => exact hpc
    | succ k ih => rw [State.cellAddress, State.cellAddress, ih, State.toWord, State.toWord, hP]
  have hcell : ∀ k, s.streamCell k = s'.streamCell k := by
    intro k
    rw [State.streamCell, State.streamCell, haddr, hP, hmem]
  rw [State.instructionAtPc, State.instructionAtPc, State.streamCells, State.streamCells, hP, hpc, hcell, hcell,
    hcell, hcell]

/-- A comparand that names no PC, IR or Flags is architectural. -/
theorem operandValue_congr {v : Int} (hv : namesSpecial s.params v = false) :
    s.operandValue v = s'.operandValue v := by
  have hP : s.params = s'.params := congrArg Arch.params h
  have hgpr : s.gpr = s'.gpr := congrArg Arch.gpr h
  rw [State.operandValue, State.operandValue, ← hP]
  cases hr : regOfId s.params v with
  | none => rfl
  | some r =>
    obtain ⟨i, -, rfl⟩ := gpr_of_not_special hr hv
    exact congrArg (fun g : List Int => g.getD i 0) hgpr

theorem leavesOpen_congr (i : Instr) : s.leavesOpen i = s'.leavesOpen i := by
  have hP : s.params = s'.params := congrArg Arch.params h
  have hspecial : s.namesSpecialOperand i = s'.namesSpecialOperand i := by
    rw [State.namesSpecialOperand, State.namesSpecialOperand, hP]
  rw [State.leavesOpen, State.leavesOpen, ← hspecial]
  cases hn : s.namesSpecialOperand i with
  | true => rfl
  | false =>
    have hplain : ∀ v ∈ aluRegisters i, s.operandValue v = s'.operandValue v := fun v hv =>
      operandValue_congr h (by simpa using List.any_eq_false.1 hn v hv)
    cases i
    case jgt a b t | jlw a b t =>
      simp only [State.leavesOrderOpen, State.comparisonOpen, hplain a (.head _), hplain b (.tail _ (.head _)), hP]
    all_goals rfl

theorem outcome_congr (hc : s.freeCount = s'.freeCount) (i : Instr) : s.outcome i = s'.outcome i := by
  unfold State.outcome
  rw [leavesOpen_congr h, h, hc]

theorem stepOutcome_congr (hc : s.freeCount = s'.freeCount) : s.stepOutcome = s'.stepOutcome := by
  have hP : s.params = s'.params := congrArg Arch.params h
  have hpc : s.pc = s'.pc := congrArg Arch.pc h
  have hi := instructionAtPc_congr h
  cases hi' : s'.instructionAtPc with
  | some i =>
    rw [stepOutcome_of_some (hi.trans hi'), stepOutcome_of_some hi', outcome_congr h hc, h]
  | none =>
    by_cases hr : inRange s'.params s'.pc = true
    · rw [stepOutcome_of_none_of_inRange (hi.trans hi') (hP ▸ hpc ▸ hr), stepOutcome_of_none_of_inRange hi' hr, h]
    · rw [stepOutcome_of_none_of_not_inRange (hi.trans hi') (hP ▸ hpc ▸ hr), stepOutcome_of_none_of_not_inRange hi' hr,
        h, hpc]

end

/-- Settles O48. -/
theorem stepDependsOnArchitecturalStateAlone : Obligations.StepDependsOnArchitecturalStateAlone := by
  unfold Obligations.StepDependsOnArchitecturalStateAlone StepsTo
  intro s s' t t' h hs hs' hc ht ht'
  have hst : s.status = s'.status := congrArg Arch.status h
  by_cases hrun : s.status = .running
  · obtain ⟨u, hu, -, harch⟩ := step_running hs hrun
    obtain ⟨u', hu', -, harch'⟩ := step_running hs' (hst ▸ hrun)
    cases hu.symm.trans ht
    cases hu'.symm.trans ht'
    rw [harch, harch', stepOutcome_congr h hc]
  · cases (step_of_not_running hrun).symm.trans ht
    cases (step_of_not_running (hst ▸ hrun)).symm.trans ht'
    exact h

end Sys2Proof.Machine
end

section
/-! SUPPORT. What an instruction changes and what it leaves unchanged, for every instruction at once. -/

namespace Sys2Proof.Machine

open Sys2Proof.Config

/-! ### The fields of the updates of the architectural state -/

section
variable (m : Arch) (sets : Bool) (f : FlagBits) (n : Nat) (r : Reg) (a v : Int) (taken : Bool)

@[simp] theorem flagged_params : (m.flagged sets f).params = m.params := by cases sets <;> rfl
@[simp] theorem flagged_gpr : (m.flagged sets f).gpr = m.gpr := by cases sets <;> rfl
@[simp] theorem flagged_pc : (m.flagged sets f).pc = m.pc := by cases sets <;> rfl
@[simp] theorem flagged_mem : (m.flagged sets f).mem = m.mem := by cases sets <;> rfl
@[simp] theorem flagged_status : (m.flagged sets f).status = m.status := by cases sets <;> rfl
@[simp] theorem flagged_flags : (m.flagged sets f).flags = if sets then f else m.flags := by cases sets <;> rfl

@[simp] theorem advance_params : (m.advance n).params = m.params := rfl
@[simp] theorem advance_gpr : (m.advance n).gpr = m.gpr := rfl
@[simp] theorem advance_flags : (m.advance n).flags = m.flags := rfl
@[simp] theorem advance_mem : (m.advance n).mem = m.mem := rfl
@[simp] theorem advance_status : (m.advance n).status = m.status := rfl
@[simp] theorem advance_pc : (m.advance n).pc = m.cellAddress n := rfl

@[simp] theorem cellAddress_flagged : (m.flagged sets f).cellAddress n = m.cellAddress n := by cases sets <;> rfl
@[simp] theorem cellAddress_setMemory : (m.setMemory a v).cellAddress n = m.cellAddress n := rfl

@[simp] theorem arch_setReg_params : (m.setReg r v).params = m.params := by cases r <;> rfl
@[simp] theorem arch_setReg_mem : (m.setReg r v).mem = m.mem := by cases r <;> rfl
@[simp] theorem arch_setReg_status : (m.setReg r v).status = m.status := by cases r <;> rfl

@[simp] theorem setMemory_params : (m.setMemory a v).params = m.params := rfl
@[simp] theorem setMemory_gpr : (m.setMemory a v).gpr = m.gpr := rfl
@[simp] theorem setMemory_flags : (m.setMemory a v).flags = m.flags := rfl
@[simp] theorem setMemory_pc : (m.setMemory a v).pc = m.pc := rfl
@[simp] theorem setMemory_status : (m.setMemory a v).status = m.status := rfl
@[simp] theorem setMemory_mem : (m.setMemory a v).mem = writeCell m.mem a.toNat v := rfl

@[simp] theorem jumpIf_params : (m.jumpIf taken a n).params = m.params := by cases taken <;> rfl
@[simp] theorem jumpIf_gpr : (m.jumpIf taken a n).gpr = m.gpr := by cases taken <;> rfl
@[simp] theorem jumpIf_flags : (m.jumpIf taken a n).flags = m.flags := by cases taken <;> rfl
@[simp] theorem jumpIf_mem : (m.jumpIf taken a n).mem = m.mem := by cases taken <;> rfl
@[simp] theorem jumpIf_status : (m.jumpIf taken a n).status = m.status := by cases taken <;> rfl
@[simp] theorem jumpIf_pc : (m.jumpIf taken a n).pc = if taken then a else m.cellAddress n := by cases taken <;> rfl

variable {m r v}

theorem setReg_gpr_of_ne {k : Nat} (h : r ≠ .gpr k) : (m.setReg r v).gpr[k]? = m.gpr[k]? := by
  cases r with
  | gpr i => exact List.getElem?_set_ne fun e => h (congrArg Reg.gpr e)
  | pc | ir | flags => rfl

theorem arch_setReg_flags_of_ne (h : r ≠ .flags) : (m.setReg r v).flags = m.flags := by
  cases r with
  | flags => exact absurd rfl h
  | gpr | pc | ir => rfl

theorem setReg_pc_of_ne (h : r ≠ .pc) : (m.setReg r v).pc = m.pc := by
  cases r with
  | pc => exact absurd rfl h
  | gpr | ir | flags => rfl

theorem setReg_gpr_length : (m.setReg r v).gpr.length = m.gpr.length := by
  cases r with
  | gpr i => exact List.length_set
  | pc | ir | flags => rfl

end

/-- A register other than IR is named only by its id. -/
theorem regOfId_of_named {m : Arch} {d : Int} {r : Reg} (h : m.named d = r) (hr : r ≠ .ir) :
    regOfId m.params d = some r := by
  rw [Arch.named] at h
  cases hd : regOfId m.params d with
  | none => rw [hd] at h; exact absurd h.symm hr
  | some r' => rw [hd] at h; exact congrArg some h

/-! ### The four shapes of an outcome -/

/-- An instruction that ends leaves the architectural state `m` in one of four shapes: it writes a register, or a
memory cell, or it jumps, or it halts. -/
inductive Shape (m : Arch) (i : Instr) : Arch → Prop
  | register (d v : Int) (sets : Bool) (f : FlagBits) (hd : registerDestination i = some d)
      (hsets : sets = true → isArithmetic i = true) :
      Shape m i (((m.flagged sets f).advance i.length).setReg (m.named d) v)
  | memory (d v : Int) (sets : Bool) (f : FlagBits) (hd : memoryDestination i = some d)
      (hsets : sets = true → isArithmetic i = true) :
      Shape m i (((m.flagged sets f).setMemory d v).advance i.length)
  | jump (t : Int) (taken : Bool) (ht : jumpTarget i = some t) : Shape m i (m.jumpIf taken t i.length)
  | halt (h : i = .reserved8 ∨ i = .reserved9 ∨ i = .reserved10) : Shape m i { m with status := .halted }

section
variable {m : Arch} {i : Instr}

/-- A move into a register: a store into PC leaves the word after it (70_reset_and_hazards R314). -/
theorem moveInto_eq (m : Arch) (r : Reg) (v : Int) : ∃ w, m.moveInto r v = (m.advance 3).setReg r w := by
  cases r with
  | pc => exact ⟨m.wrap (v + 1), rfl⟩
  | gpr | ir | flags => exact ⟨v, rfl⟩

theorem shape_moveInto {d : Int} (hd : registerDestination i = some d) (hlen : i.length = 3) (v : Int) :
    Shape m i (m.moveInto (m.named d) v) := by
  obtain ⟨w, hw⟩ := moveInto_eq m (m.named d) v
  have h := Shape.register (m := m) d w false 0 hd nofun
  rw [hlen] at h
  rw [hw]
  exact h

theorem effect_shape (m : Arch) (i : Instr) : Shape m i (m.effect i) := by
  cases i
  case addRegReg | addMemReg | subRegReg | subMemReg | incReg => exact .register _ _ _ _ rfl fun _ => rfl
  case addRegMem | addImmMem | subRegMem | subImmMem | incMem => exact .memory _ _ _ _ rfl fun _ => rfl
  case moveRegMem => exact .memory _ _ false 0 rfl nofun
  case moveMemReg | moveRegReg | moveImmReg | ldi => exact shape_moveInto rfl rfl _
  case jmp t => exact .jump t true rfl
  case jn | jz | jnz | jeq | jgt | jlw => exact .jump _ _ rfl
  case reserved8 => exact .halt (.inl rfl)
  case reserved9 => exact .halt (.inr (.inl rfl))
  case reserved10 => exact .halt (.inr (.inr rfl))

theorem openEffect_shape (m : Arch) (draw : Nat) (i : Instr) : Shape m i (m.openEffect draw i) := by
  cases i
  case addRegReg | addMemReg | subRegReg | subMemReg | incReg => exact .register _ _ _ _ rfl fun _ => rfl
  case addRegMem | subRegMem => exact .memory _ _ _ _ rfl fun _ => rfl
  case jeq | jgt | jlw => exact .jump _ _ rfl
  all_goals exact effect_shape m _

theorem outcome_shape (s : State) (i : Instr) : Shape s.arch i (s.outcome i) := by
  rw [State.outcome]
  split
  · exact openEffect_shape s.arch s.freeCount i
  · exact effect_shape s.arch i

end

/-! ### Faults (60_exceptions section 3) -/

/-- No instruction that ends leaves the machine in FAULT. -/
theorem outcome_status (s : State) (i : Instr) :
    (s.outcome i).status = s.status ∨ (s.outcome i).status = .halted := by
  have hshape := outcome_shape s i
  generalize s.outcome i = m at hshape
  cases hshape with
  | register | memory | jump => simp
  | halt => exact .inr rfl

section
variable {s t : State}

/-- A step into FAULT has changed `pc` and `status` alone, and has its cause. -/
theorem fault_effect (hs : Invariant s) (hrun : s.status = .running) (h : StepsTo s t) {f : Fault}
    (hf : t.status = .fault f) : t.phase = .idle ∧ f.hasCause s.params ∧ ∃ k : Nat,
      t.arch = { s.arch with pc := s.arch.cellAddress k, status := .fault f } ∧
      match s.instructionAtPc with
      | some i => k < i.length
      | none => k = 0 := by
  obtain ⟨hphase, heffect⟩ := stepsTo_effect hs h
  refine ⟨hphase, ?_⟩
  replace hf : t.arch.status = .fault f := hf
  generalize t.arch = m at hf heffect
  cases heffect with
  | terminal hrun' => exact absurd hrun hrun'
  | halt => cases hf
  | fault _ f' k hcause hk =>
    cases hf
    exact ⟨hcause, k, rfl, hk⟩
  | run _ i =>
    rcases outcome_status s i with h | h
    · rw [hf, hrun] at h; cases h
    · rw [hf] at h; cases h

/-- Settles O49. -/
theorem faultsArePrecise : Obligations.FaultsArePrecise := by
  unfold Obligations.FaultsArePrecise
  intro s t f hs hrun h hf
  obtain ⟨hphase, -, k, harch, hk⟩ := fault_effect hs hrun h hf
  exact ⟨congrArg Arch.gpr harch, congrArg Arch.flags harch, congrArg Arch.mem harch, hphase, k,
    congrArg Arch.pc harch, hk⟩

/-- Settles O50. -/
theorem faultsHaveACause : Obligations.FaultsHaveACause := by
  unfold Obligations.FaultsHaveACause
  intro s t f hs hrun h hf
  obtain ⟨-, hcause, -⟩ := fault_effect hs hrun h hf
  refine ⟨fun a ha => ?_, fun v hv => ?_⟩
  · subst ha
    exact inRange_false_iff.1 hcause
  · subst hv
    rw [← regOfId_eq_none_iff, ← Option.not_isSome_iff_eq_none, regOfId_isSome_iff]
    exact Bool.eq_false_iff.1 hcause

/-! ### What changes (10_state R23, section 5, 20_memory section 1) -/

/-- A step that changes a register, a flag or a memory cell has run an instruction to its end. -/
theorem step_changes {β : Type} (hs : Invariant s) (h : StepsTo s t) (field : Arch → β)
    (hfield : ∀ (pc : Int) (st : Status), field { s.arch with pc := pc, status := st } = field s.arch)
    (hne : field t.arch ≠ field s.arch) :
    ∃ i, s.instructionAtPc = some i ∧ t.arch = s.outcome i := by
  obtain ⟨-, heffect⟩ := stepsTo_effect hs h
  generalize t.arch = m at hne heffect
  cases heffect with
  | terminal => exact absurd rfl hne
  | halt => exact absurd (hfield s.pc .halted) hne
  | fault _ f k => exact absurd (hfield (s.arch.cellAddress k) (.fault f)) hne
  | run _ i hi => exact ⟨i, hi, rfl⟩

/-- Settles O51. -/
theorem onlyDestinationRegistersChange : Obligations.OnlyDestinationRegistersChange := by
  unfold Obligations.OnlyDestinationRegistersChange
  intro s t k hs h hne
  obtain ⟨i, hi, harch⟩ := step_changes hs h (fun m => m.gpr[k]?) (fun _ _ => rfl) hne
  have hgpr : (s.outcome i).gpr[k]? ≠ s.arch.gpr[k]? := harch ▸ hne
  generalize hm : s.outcome i = m at hgpr
  cases hm ▸ outcome_shape s i with
  | register d v sets f hd =>
    by_cases hnamed : s.arch.named d = .gpr k
    · exact ⟨i, d, hi, hd, regOfId_of_named hnamed nofun⟩
    · rw [setReg_gpr_of_ne hnamed] at hgpr
      simp at hgpr
  | memory | jump | halt => simp at hgpr

/-- Settles O52. -/
theorem onlyArithmeticAndFlagMovesChangeFlags : Obligations.OnlyArithmeticAndFlagMovesChangeFlags := by
  unfold Obligations.OnlyArithmeticAndFlagMovesChangeFlags
  intro s t hs h hne
  obtain ⟨i, hi, harch⟩ := step_changes hs h Arch.flags (fun _ _ => rfl) hne
  have hflags : (s.outcome i).flags ≠ s.arch.flags := harch ▸ hne
  refine ⟨i, hi, ?_⟩
  generalize hm : s.outcome i = m at hflags
  cases hm ▸ outcome_shape s i with
  | register d v sets f hd hsets =>
    by_cases hnamed : s.arch.named d = .flags
    · exact .inr ⟨d, hd, regOfId_of_named hnamed nofun⟩
    · rw [arch_setReg_flags_of_ne hnamed] at hflags
      cases sets with
      | true => exact .inl (hsets rfl)
      | false => simp at hflags
  | memory d v sets f hd hsets =>
    cases sets with
    | true => exact .inl (hsets rfl)
    | false => simp at hflags
  | jump | halt => simp at hflags

/-- Settles O53. -/
theorem onlyDestinationCellsChange : Obligations.OnlyDestinationCellsChange := by
  unfold Obligations.OnlyDestinationCellsChange
  intro s t a hs h hne
  obtain ⟨i, hi, harch⟩ := step_changes hs h (fun m => readCell m.mem a) (fun _ _ => rfl) hne
  have hmem : readCell (s.outcome i).mem a ≠ readCell s.arch.mem a := harch ▸ hne
  generalize hm : s.outcome i = m at hmem
  cases hm ▸ outcome_shape s i with
  | memory d v sets f hd =>
    refine ⟨i, d, hi, hd, ?_⟩
    by_contra hda
    simp [readCell_writeCell_other (Ne.symm hda)] at hmem
  | register | jump | halt => simp at hmem

/-- Settles O54. -/
theorem controlTransfersOnlyByJumpsAndPcWrites : Obligations.ControlTransfersOnlyByJumpsAndPcWrites := by
  unfold Obligations.ControlTransfersOnlyByJumpsAndPcWrites
  intro s t hs hrun h hrun'
  obtain ⟨-, heffect⟩ := stepsTo_effect hs h
  replace hrun' : t.arch.status = .running := hrun'
  rw [← arch_pc t]
  generalize t.arch = m at hrun' heffect
  cases heffect with
  | terminal hst => exact absurd hrun hst
  | halt | fault => cases hrun'
  | run _ i hi hcells =>
    refine ⟨i, hi, ?_⟩
    have hnext : s.toWord (s.pc + i.length) = s.arch.cellAddress i.length := rfl
    rw [hnext]
    generalize hm : s.outcome i = m at hrun'
    cases hm ▸ outcome_shape s i with
    | register d v sets f hd =>
      by_cases hnamed : s.arch.named d = .pc
      · exact .inr (.inr ⟨d, hd, regOfId_of_named hnamed nofun⟩)
      · rw [setReg_pc_of_ne hnamed]
        simp
    | memory => simp
    | jump t taken ht => cases taken <;> simp [ht]
    | halt => cases hrun'

end

end Sys2Proof.Machine
end

section
/-! SUPPORT. Every microprogram reads the cells of its instruction one after the other, and reads them all before it
writes PC or memory (47_microprograms R231 to R252). So it makes no difference whether the cells come from the decoded
instruction or from memory. -/

namespace Sys2Proof.Machine

open Sys2Proof.Config

/-! ### Microprograms as the reads of their cells -/

/-- A transaction that reads no cell of the instruction and leaves `pc` and memory alone. -/
def Transaction.isQuiet : Transaction → Bool
  | .regStore r | .regInternalStore r => decide (r ≠ .pc)
  | .rfStore | .rfInternalStore | .memStore | .cellRead _ => false
  | .regRead _ | .regInternalRead _ | .selLoad | .rfRead | .rfInternalRead => true
  | .aluStore _ | .aluInternalStore _ | .aluRead _ | .aluInternalRead _ | .aluCommand _ => true
  | .memRead | .deriveFlags _ => true

/-- A transaction that reads a given cell. -/
def Transaction.readsGivenCell : Transaction → Bool
  | .cellRead _ => true
  | _ => false

/-- The reads of consecutive operand cells, the first of them cell `k`, each followed by what is done with its word;
`last` follows the last of them. -/
def segments (cells : CellReader) : Nat → List (List Transaction) → List Transaction → List Transaction
  | k, [], last => immOperand (cells k) ++ last
  | k, ts :: rest, last => immOperand (cells k) ++ (ts ++ segments cells (k + 1) rest last)

/-- The microprogram `p` reads `n` operand cells, and until it has read the last of them it is quiet. -/
def ReadsCellsFirst (p : CellReader → Microprogram) (n : Nat) : Prop :=
  ∃ (init : List (List Transaction)) (last : List Transaction) (test : Option Test), init.length + 1 = n ∧
    (∀ ts ∈ init, ts.all Transaction.isQuiet = true) ∧ last.all (fun t => !t.readsGivenCell) = true ∧
    ∀ cells, p cells = ⟨segments cells 1 init last, test⟩

theorem registerTail_readsNoCell (sets : Bool) {compute : List Transaction}
    (h : compute.all (fun t => !t.readsGivenCell) = true) :
    (.selLoad :: registerTail sets compute : List Transaction).all (fun t => !t.readsGivenCell) = true := by
  rw [registerTail, List.all_cons, List.all_append, h]
  cases sets <;> rfl

theorem memoryTail_readsNoCell (sets : Bool) {compute : List Transaction}
    (h : compute.all (fun t => !t.readsGivenCell) = true) :
    (.memStore :: memoryTail sets compute : List Transaction).all (fun t => !t.readsGivenCell) = true := by
  rw [memoryTail, List.all_cons, List.all_cons, List.all_append, h]
  cases sets <;> rfl

/-- Each microprogram of the table. -/
theorem microprogram_readsCellsFirst {P : Params} {i : Instr} {p : CellReader → Microprogram}
    (hp : microprogram P i.opcode = some p) : ReadsCellsFirst p (i.length - 1) := by
  have hadd := registerTail_readsNoCell P.addUpdatesFlags (compute := addOnBus1) rfl
  have haddMem := memoryTail_readsNoCell P.addUpdatesFlags (compute := addOnBus2) rfl
  have one {ts : List Transaction} (h : ts.all Transaction.isQuiet = true) :
      ∀ us ∈ [ts], us.all Transaction.isQuiet = true := by simpa using h
  cases i <;> cases hp
  case addRegReg =>
    exact ⟨[[.selLoad, .rfInternalRead, .aluStore .slot0]], _, none, rfl, one rfl, hadd, fun cells => by
      rw [addRegRegProgram, addIntoRegister_eq]; rfl⟩
  case addMemReg =>
    exact ⟨[[.memRead, .regStore .ir, .regInternalRead .ir, .aluInternalStore .slot0]], _, none, rfl, one rfl, hadd,
      fun cells => by rw [addMemRegProgram, addIntoRegister_eq]; rfl⟩
  case addRegMem =>
    exact ⟨[[.selLoad, .rfInternalRead, .aluStore .slot0]], _, none, rfl, one rfl, haddMem, fun cells => by
      rw [addRegMemProgram, addIntoMemory_eq]; rfl⟩
  case addImmMem =>
    exact ⟨[[.regStore .ir, .regInternalRead .ir, .aluInternalStore .slot0]], _, none, rfl, one rfl, haddMem,
      fun cells => by rw [addImmMemProgram, addIntoMemory_eq]; rfl⟩
  case subRegReg =>
    exact ⟨[[.selLoad, .rfInternalRead, .aluStore .slot0]], .selLoad :: registerTail true subOnBus1, none, rfl,
      one rfl, rfl, fun _ => rfl⟩
  case subMemReg =>
    exact ⟨[[.memRead, .regStore .ir, .regInternalRead .ir, .aluInternalStore .slot0]],
      .selLoad :: registerTail true subOnBus1, none, rfl, one rfl, rfl, fun _ => rfl⟩
  case subRegMem =>
    exact ⟨[[.selLoad, .rfInternalRead, .aluStore .slot0]], .memStore :: memoryTail true subOnBus2, none, rfl,
      one rfl, rfl, fun _ => rfl⟩
  case subImmMem =>
    exact ⟨[[.regStore .ir, .regInternalRead .ir, .aluInternalStore .slot0]], .memStore :: memoryTail true subOnBus2,
      none, rfl, one rfl, rfl, fun _ => rfl⟩
  case moveMemReg =>
    exact ⟨[[.memRead, .regStore .ir]], .selLoad :: .regRead .ir :: .rfStore :: pcadv, none, rfl, one rfl, rfl,
      fun _ => rfl⟩
  case moveRegMem =>
    exact ⟨[[.selLoad]], .memStore :: .rfRead :: .memStore :: pcadv, none, rfl, one rfl, rfl, fun _ => rfl⟩
  case moveRegReg =>
    exact ⟨[[.selLoad, .rfRead, .regStore .ir]], .selLoad :: .regRead .ir :: .rfStore :: pcadv, none, rfl, one rfl,
      rfl, fun _ => rfl⟩
  case moveImmReg =>
    exact ⟨[[.regStore .ir]], .selLoad :: .regRead .ir :: .rfStore :: pcadv, none, rfl, one rfl, rfl, fun _ => rfl⟩
  case ldi => exact ⟨[[.selLoad]], .rfStore :: pcadv, none, rfl, one rfl, rfl, fun _ => rfl⟩
  case incReg => exact ⟨[], .selLoad :: registerTail true incOnBus1, none, rfl, nofun, rfl, fun _ => rfl⟩
  case incMem => exact ⟨[], .memStore :: memoryTail true incOnBus2, none, rfl, nofun, rfl, fun _ => rfl⟩
  case jmp => exact ⟨[], [.regStore .pc], none, rfl, nofun, rfl, fun _ => rfl⟩
  case jn => exact ⟨[], [], some .negative, rfl, nofun, rfl, fun _ => rfl⟩
  case jz => exact ⟨[], [], some .zero, rfl, nofun, rfl, fun _ => rfl⟩
  case jnz => exact ⟨[], [], some .nonzero, rfl, nofun, rfl, fun _ => rfl⟩
  case jeq | jgt | jlw =>
    exact ⟨[[.selLoad, .rfInternalRead, .aluStore .slot0], .selLoad :: differenceOnBus1], [], some _, rfl,
      by decide, rfl, fun _ => rfl⟩

/-! ### Given cells and cells in memory -/

/-- A quiet transaction leaves what the reads of the cells depend on. -/
theorem apply_quiet {t : Transaction} {u v : State} (ht : t.isQuiet = true) (h : t.apply u = .ok v) :
    v.params = u.params ∧ v.mem = u.mem ∧ v.pc = u.pc := by
  refine ⟨apply_params h, ?_⟩
  cases t with
  | regStore r | regInternalStore r =>
    cases h
    cases r with
    | pc => cases ht
    | gpr | ir | flags => exact ⟨rfl, rfl⟩
  | rfStore | rfInternalStore | memStore | cellRead => cases ht
  | selLoad =>
    rw [Transaction.apply, State.selectorLoad] at h
    split at h <;> cases h
    exact ⟨rfl, rfl⟩
  | memRead =>
    rw [Transaction.apply, State.memoryRead] at h
    split at h <;> cases h
    exact ⟨rfl, rfl⟩
  | regRead | regInternalRead | rfRead | rfInternalRead | aluRead | aluInternalRead =>
    cases h
    exact ⟨busPut_mem u _ _, busPut_pc u _ _⟩
  | aluStore | aluInternalStore =>
    cases h
    exact ⟨setSlot_mem u _ _, setSlot_pc u _ _⟩
  | aluCommand | deriveFlags =>
    cases h
    exact ⟨rfl, rfl⟩

theorem runTransactions_quiet {ts : List Transaction} {u v : State} (hts : ts.all Transaction.isQuiet = true)
    (h : runTransactions ts u = .ok v) : v.params = u.params ∧ v.mem = u.mem ∧ v.pc = u.pc := by
  induction ts generalizing u with
  | nil => cases h; exact ⟨rfl, rfl, rfl⟩
  | cons t rest ih =>
    rw [List.all_cons, Bool.and_eq_true] at hts
    rw [runTransactions] at h
    cases ht : t.apply u with
    | error e => rw [ht] at h; cases h
    | ok w =>
      rw [ht] at h
      obtain ⟨hP, hmem, hpc⟩ := apply_quiet hts.1 ht
      obtain ⟨hP', hmem', hpc'⟩ := ih hts.2 h
      exact ⟨hP'.trans hP, hmem'.trans hmem, hpc'.trans hpc⟩

section
variable {s : State}

/-- The two ways to read one cell agree, if what follows agrees. -/
theorem run_immOperand_given_eq_memRead {u : State} {k : Nat} {rest rest' : List Transaction}
    (hP : u.params = s.params) (hmem : u.mem = s.mem) (hpc : u.pc = s.cellAddress k)
    (h : runTransactions rest (u.atNextCell (s.streamCell (k + 1))) =
      runTransactions rest' (u.atNextCell (s.streamCell (k + 1)))) :
    runTransactions (immOperand (.cellRead (s.streamCell (k + 1))) ++ rest) u =
      runTransactions (immOperand .memRead ++ rest') u := by
  have haddr : u.toWord (u.pc + 1) = s.cellAddress (k + 1) := by
    rw [hpc, State.toWord, hP]
    rfl
  rw [run_immOperand_given, run_immOperand (readsAs_memRead u.mem _), haddr, hP, hmem]
  by_cases hr : inRange s.params (s.cellAddress (k + 1)) = true
  · have hcell : readCell s.mem (s.cellAddress (k + 1)).toNat = s.streamCell (k + 1) := (if_pos hr).symm
    rw [if_pos hr, if_pos hr, hcell]
    exact h
  · rw [if_neg hr, if_neg hr]

theorem run_segments_given_eq_memory {cells : List Int} (init : List (List Transaction)) (last : List Transaction)
    (hquiet : ∀ ts ∈ init, ts.all Transaction.isQuiet = true) (k : Nat)
    (hcells : ∀ j, j ≤ init.length → cells.getD (k + 1 + j) 0 = s.streamCell (k + 1 + j)) (u : State)
    (hP : u.params = s.params) (hmem : u.mem = s.mem) (hpc : u.pc = s.cellAddress k) :
    runTransactions (segments (givenCells cells) (k + 1) init last) u =
      runTransactions (segments memoryCells (k + 1) init last) u := by
  have hcell : cells.getD (k + 1) 0 = s.streamCell (k + 1) := hcells 0 (Nat.zero_le _)
  induction init generalizing k u with
  | nil =>
    rw [segments, segments, givenCells_apply, hcell]
    exact run_immOperand_given_eq_memRead hP hmem hpc rfl
  | cons ts rest ih =>
    rw [segments, segments, givenCells_apply, hcell]
    refine run_immOperand_given_eq_memRead hP hmem hpc ?_
    rw [runTransactions_append, runTransactions_append]
    cases hts : runTransactions ts (u.atNextCell (s.streamCell (k + 1))) with
    | error e => rfl
    | ok v =>
      obtain ⟨hP', hmem', hpc'⟩ := runTransactions_quiet (hquiet ts (.head _)) hts
      have hnext : v.pc = s.cellAddress (k + 1) := by
        rw [hpc']
        change wrap u.params.xlen (u.pc + 1) = wrap s.params.xlen (s.cellAddress k + 1)
        rw [hP, hpc]
      have hshift : ∀ j, j ≤ rest.length → cells.getD (k + 1 + 1 + j) 0 = s.streamCell (k + 1 + 1 + j) := by
        intro j hj
        have := hcells (j + 1) (Nat.succ_le_succ hj)
        rwa [show k + 1 + (j + 1) = k + 1 + 1 + j by omega] at this
      exact ih (fun ts' h => hquiet ts' (.tail _ h)) (k + 1) hshift v (hP'.trans hP) (hmem'.trans hmem) hnext
        (hshift 0 (Nat.zero_le _))

/-- A microprogram runs alike on the decoded instruction's cells and on memory's. -/
theorem microprogram_run_given_eq_memory {i : Instr} {p : CellReader → Microprogram}
    (hi : s.instructionAtPc = some i) (hp : microprogram s.params i.opcode = some p) (c : Int) :
    (p (givenCells (encode i))).run (s.decoded c) = (p memoryCells).run (s.decoded c) := by
  obtain ⟨init, last, test, hlength, hquiet, -, heq⟩ := microprogram_readsCellsFirst hp
  have hcells : ∀ j, j ≤ init.length → (encode i).getD (0 + 1 + j) 0 = s.streamCell (0 + 1 + j) :=
    fun j hj => (streamCell_of_instructionAtPc hi (by omega)).symm
  rw [heq, heq, Microprogram.run, Microprogram.run,
    run_segments_given_eq_memory init last hquiet 0 hcells (s.decoded c) rfl rfl rfl]

theorem cycle_of_not_inRange (hrun : s.status = .running) (hr : ¬ inRange s.params s.pc = true) :
    cycle s = .next (State.raiseFault { s with extbus := s.pc } (.addressOutOfRange s.pc)) := by
  have hfetch : runTransactions (fetchDecode .memRead) s =
      .error (.addressOutOfRange s.pc, { s with extbus := s.pc }) := by
    rw [run_fetchDecode (readsAs_memRead _ _), if_neg hr]
  rw [cycle, hfetch]
  split
  · rfl
  all_goals cases hrun.symm.trans ‹_›

/-- The cycle on the opcode in memory. -/
theorem cycle_of_inRange (hrun : s.status = .running) (hr : inRange s.params s.pc = true) :
    cycle s = match microprogram s.params (readCell s.mem s.pc.toNat) with
      | none => .next (s.decoded (readCell s.mem s.pc.toNat)).halt
      | some p => finishStep ((p memoryCells).run (s.decoded (readCell s.mem s.pc.toNat))) := by
  rw [cycle, hrun, run_fetchDecode (readsAs_memRead _ _), if_pos hr]
  rfl

theorem opcode_of_instructionAtPc {i : Instr} (hi : s.instructionAtPc = some i) :
    inRange s.params s.pc = true ∧ readCell s.mem s.pc.toNat = i.opcode := by
  obtain ⟨hr, rest, hcells⟩ := instructionAtPc_eq_some_iff.1 hi
  rw [streamCells_eq_cons hr] at hcells
  refine ⟨hr, ?_⟩
  cases i <;> exact (List.cons.inj hcells).1

/-- Settles O47. -/
theorem stepIsTheTransactionCycle : Obligations.StepIsTheTransactionCycle := by
  unfold Obligations.StepIsTheTransactionCycle
  intro s hclosed
  by_cases hrun : s.status = .running
  · cases hi : s.instructionAtPc with
    | some i =>
      obtain ⟨hr, hop⟩ := opcode_of_instructionAtPc hi
      have hopen : s.leavesOpen i = false := by simpa [State.leavesResultOpen, hi] using hclosed
      rw [step_of_some hrun hi, cycle_of_inRange hrun hr, hop]
      cases hp : microprogram s.params i.opcode with
      | none => exact exec_of_fetch_halt hp hr
      | some p =>
        rw [exec_of_fetch_run hp hr, settledBy_of_not_open hopen, microprogram_run_given_eq_memory hi hp]
        rw [Except.map_id]; rfl
    | none =>
      rw [step_of_none hrun hi]
      by_cases hr : inRange s.params s.pc = true
      · rw [execUnmatched_of_inRange hr, cycle_of_inRange hrun hr,
          microprogram_of_outside _ (opcode_outside_of_none hi hr)]
      · rw [execUnmatched_of_not_inRange hr, cycle_of_not_inRange hrun hr]
  · rw [step_of_not_running hrun, cycle]
    cases hst : s.status
    case running => exact absurd hst hrun
    all_goals rfl

end

end Sys2Proof.Machine
end

section
/-! SUPPORT. Every step keeps the invariant: each transaction keeps the machine coherent (Laws/Coherent.lean), and the
cells of the instruction are words because memory holds them. -/

namespace Sys2Proof.Machine

open Sys2Proof.Config

/-! ### Runs of transactions -/

theorem coherent_runTransactions {ts : List Transaction} {s : State} (h : Coherent s)
    (hc : ∀ c, .cellRead c ∈ ts → isWord s.params.xlen c = true) : Coherent (runState (runTransactions ts s)) := by
  induction ts generalizing s with
  | nil => exact h
  | cons t rest ih =>
    rw [runTransactions]
    cases ht : t.apply s with
    | ok v =>
      refine ih (coherent_apply h (fun c hct => hc c (hct ▸ .head _)) ht) fun c hcr => ?_
      rw [apply_params ht]
      exact hc c (.tail _ hcr)
    | error e =>
      rw [show e = (e.1, s) from Prod.ext rfl (apply_error ht)]
      exact h

theorem chosenEnding_readsNoCell (taken : Bool) (c : Int) : .cellRead c ∉ chosenEnding taken := by
  cases taken <;> simp [chosenEnding, pcadv]

theorem coherent_microprogram_run {p : Microprogram} {s : State} (h : Coherent s)
    (hc : ∀ c, .cellRead c ∈ p.body → isWord s.params.xlen c = true) : Coherent (runState (p.run s)) := by
  have hb := coherent_runTransactions h hc
  rw [Microprogram.run]
  cases hbody : runTransactions p.body s with
  | error e => rwa [hbody] at hb
  | ok v =>
    rw [hbody] at hb
    cases p.test with
    | none => exact hb
    | some t => exact coherent_runTransactions hb fun c hcr => absurd hcr (chosenEnding_readsNoCell _ c)

theorem cellRead_mem_immOperand {k c : Int} (h : .cellRead c ∈ immOperand (.cellRead k)) : c = k := by
  simpa [immOperand, pcadv, cellFetch] using h

theorem cellRead_not_mem {ts : List Transaction} (h : ts.all (fun t => !t.readsGivenCell) = true) (c : Int) :
    .cellRead c ∉ ts := fun hc => by simpa [Transaction.readsGivenCell] using List.all_eq_true.1 h _ hc

theorem quiet_readsNoCell {ts : List Transaction} (h : ts.all Transaction.isQuiet = true) (c : Int) :
    .cellRead c ∉ ts := fun hc => by simpa [Transaction.isQuiet] using List.all_eq_true.1 h _ hc

theorem cellRead_mem_segments {cells : List Int} {c : Int} {last : List Transaction}
    (hlast : last.all (fun t => !t.readsGivenCell) = true) {init : List (List Transaction)} {k : Nat}
    (hquiet : ∀ ts ∈ init, ts.all Transaction.isQuiet = true)
    (h : .cellRead c ∈ segments (givenCells cells) k init last) : ∃ j, c = cells.getD j 0 := by
  induction init generalizing k with
  | nil =>
    rcases List.mem_append.1 h with h | h
    · exact ⟨k, cellRead_mem_immOperand h⟩
    · exact absurd h (cellRead_not_mem hlast c)
  | cons ts rest ih =>
    rcases List.mem_append.1 h with h | h
    · exact ⟨k, cellRead_mem_immOperand h⟩
    · rcases List.mem_append.1 h with h | h
      · exact absurd h (quiet_readsNoCell (hquiet ts (.head _)) c)
      · exact ih (fun ts' h' => hquiet ts' (.tail _ h')) h

theorem cellRead_mem_body {P : Params} {i : Instr} {p : CellReader → Microprogram}
    (hp : microprogram P i.opcode = some p) {cells : List Int} {c : Int}
    (h : .cellRead c ∈ (p (givenCells cells)).body) : ∃ j, c = cells.getD j 0 := by
  obtain ⟨init, last, test, -, hquiet, hlast, heq⟩ := microprogram_readsCellsFirst hp
  rw [heq] at h
  exact cellRead_mem_segments hlast hquiet h

/-! ### The parts of a step -/

section
variable {s : State}

theorem isWord_zero (h : Coherent s) : isWord s.params.xlen 0 = true :=
  Params.isWord_small h.params (by omega) (by omega)

theorem isWord_streamCell (h : Coherent s) (k : Nat) : isWord s.params.xlen (s.streamCell k) = true := by
  rw [State.streamCell]
  split
  · exact isWord_readCell h _
  · exact isWord_zero h

/-- The cells of the instruction at `pc` are words. -/
theorem isWord_cell_of_instructionAtPc (h : Coherent s) {i : Instr} (hi : s.instructionAtPc = some i) (k : Nat) :
    isWord s.params.xlen ((encode i).getD k 0) = true := by
  by_cases hk : k < i.length
  · rw [← streamCell_of_instructionAtPc hi hk]
    exact isWord_streamCell h k
  · rw [List.getD_eq_default _ _ (Nat.le_of_not_lt hk)]
    exact isWord_zero h

theorem coherent_decoded (h : Coherent s) {c : Int} (hc : isWord s.params.xlen c = true) : Coherent (s.decoded c) := by
  obtain ⟨a1, a2, a3, a4, a5, a6, a7, a8, a9, a10⟩ := (allWords_iff s).1 h.words
  exact ⟨h.params, h.registers, (allWords_iff _).2 ⟨a1, a2, hc, hc, a5, hc, a7, a8, a9, a10⟩, h.selector, h.memory, h.latch⟩

theorem isWord_openWord (h : Coherent s) (place : OpenWord) : isWord s.params.xlen (s.openWord place) = true :=
  wrap_isWord (Params.one_le_xlen h.params) _

theorem coherent_openFlags_if (h : Coherent s) (sets : Bool) : Coherent (if sets then s.openFlags else s) := by
  cases sets
  · exact h
  · exact ⟨h.params, h.registers, h.words, h.selector, h.memory, h.latch⟩

theorem coherent_openRegisterResult (h : Coherent s) (sets : Bool) (b : Int) :
    Coherent (s.openRegisterResult sets b) := by
  rw [State.openRegisterResult]
  split
  · refine coherent_setReg (coherent_openFlags_if h sets) _ ?_
    have := isWord_openWord h .aluResult
    cases sets <;> exact this
  · exact h

theorem coherent_openMemoryResult (h : Coherent s) (sets : Bool) {d : Int} (hd : inRange s.params d = true) :
    Coherent (s.openMemoryResult sets d) := by
  obtain ⟨a1, a2, a3, a4, a5, a6, a7, a8, a9, a10⟩ := (allWords_iff s).1 h.words
  have hmem := forall_isWord_writeCell a10 (isWord_openWord h .aluResult) d.toNat
  have hwf := writeCell_wf h.memory (toNat_lt_of_inRange hd) (s.openWord .aluResult)
  cases sets <;>
    exact ⟨h.params, h.registers, (allWords_iff _).2 ⟨a1, a2, a3, a4, a5, a6, a7, a8, a9, hmem⟩, h.selector, hwf,
      h.latch⟩

theorem coherent_openBranch (h : Coherent s) {t n : Int} (ht : isWord s.params.xlen t = true)
    (hn : isWord s.params.xlen n = true) : Coherent (s.openBranch t n) := by
  obtain ⟨a1, a2, a3, a4, a5, a6, a7, a8, a9, a10⟩ := (allWords_iff s).1 h.words
  refine ⟨h.params, h.registers, (allWords_iff _).2 ⟨a1, ?_, a3, a4, a5, a6, a7, a8, a9, a10⟩, h.selector, h.memory,
    h.latch⟩
  change isWord s.params.xlen (if freeBranch s.freeCount then t else n) = true
  split
  · exact ht
  · exact hn

end

/-- A check that answers no event has found every cell valid. -/
theorem valid_of_checkCells_ok {m : Arch} {k : Nat} {cs : List (CellKind × Int)} (h : m.checkCells k cs = .ok ()) :
    ∀ c ∈ cs, c.1.valid m.params c.2 = true := by
  induction cs generalizing k with
  | nil => nofun
  | cons c rest ih =>
    by_cases hr : inRange m.params (m.cellAddress k) = true
    · rw [checkCells_cons_of_inRange hr] at h
      by_cases hv : c.1.valid m.params c.2 = true
      · rw [if_pos hv] at h
        intro d hd
        rcases List.mem_cons.1 hd with rfl | hd
        · exact hv
        · exact ih h d hd
      · rw [if_neg hv] at h
        cases h
    · rw [checkCells_cons_of_not_inRange hr] at h
      cases h

/-- The open results of an instruction whose cells are words, and valid. -/
theorem coherent_openedBy {s u : State} {i : Instr} (h : Coherent u) (hparams : u.params = s.params)
    (hwords : ∀ k, isWord s.params.xlen ((encode i).getD k 0) = true)
    (hvalid : ∀ c ∈ i.operands, c.1.valid s.params c.2 = true) : Coherent (s.openedBy i u) := by
  rw [← hparams] at hwords hvalid
  cases i
  case addRegReg | addMemReg | subRegReg | subMemReg | incReg => exact coherent_openRegisterResult h _ _
  case addRegMem a d | subRegMem a d => exact coherent_openMemoryResult h _ (hvalid (.mem, d) (.tail _ (.head _)))
  case jeq a b t | jgt a b t | jlw a b t =>
    exact coherent_openBranch h (hwords 3) (wrap_isWord (Params.one_le_xlen h.params) _)
  all_goals exact h

/-! ### The step -/

section
variable {s t u : State}

theorem invariant_raiseFault (h : Coherent u) (hphase : u.phase = .idle) (f : Fault) : Invariant (u.raiseFault f) :=
  have hi := invariant_forgetTransients h hphase
  ⟨hi.params, hi.registers, hi.words, hi.selector, hi.memory, hi.phase⟩

theorem invariant_halt (h : Coherent u) (hphase : u.phase = .idle) : Invariant u.halt :=
  ⟨h.params, h.registers, h.words, h.selector, h.memory, hphase⟩

/-- A Fetch outside memory has put a word, the program counter, on the external bus. -/
theorem invariant_fetch_fault (hs : Invariant s) :
    Invariant (State.raiseFault { s with extbus := s.pc } (.addressOutOfRange s.pc)) :=
  invariant_raiseFault (coherent_busPut (.of_invariant hs) .ext (invariant_pc_isWord hs)) hs.phase _

theorem invariant_exec {i : Instr} (hs : Invariant s) (hi : s.instructionAtPc = some i) (h : exec i s = .next t) :
    Invariant t := by
  have hcoh := Coherent.of_invariant hs
  have hwords := isWord_cell_of_instructionAtPc hcoh hi
  obtain ⟨hr, hop⟩ := opcode_of_instructionAtPc hi
  have hdecoded := coherent_decoded hcoh (hop ▸ isWord_readCell hcoh s.pc.toNat)
  cases hp : microprogram s.params i.opcode with
  | none =>
    cases (exec_of_fetch_halt hp hr).symm.trans h
    exact invariant_halt hdecoded hs.phase
  | some p =>
    have hrunCoh := coherent_microprogram_run (p := p (givenCells (encode i))) hdecoded fun c hc => by
      obtain ⟨j, rfl⟩ := cellRead_mem_body hp hc
      exact hwords j
    have hparams := microprogram_run_params (p (givenCells (encode i))) (s.decoded i.opcode)
    have hmeets := microprogram_meets hs hp (walked_zero hs i.opcode) rfl
    rw [exec_of_fetch_run hp hr] at h
    cases hcheck : s.arch.checkCells 1 i.operands with
    | ok x =>
      rw [hcheck] at hmeets
      obtain ⟨v, hrun, hv⟩ := hmeets
      rw [hrun] at h hrunCoh hparams
      cases h
      refine invariant_forgetTransients ?_ ((settledBy_phase s i v).trans hv.phase)
      rw [State.settledBy]
      split
      · exact coherent_openedBy hrunCoh hparams hwords (valid_of_checkCells_ok hcheck)
      · exact hrunCoh
    | error e =>
      rw [hcheck] at hmeets
      obtain ⟨v, hrun, -, hphase⟩ := hmeets
      rw [hrun] at h hrunCoh
      cases h
      exact invariant_raiseFault hrunCoh hphase _

theorem invariant_step (hs : Invariant s) (h : StepsTo s t) : Invariant t := by
  rw [StepsTo] at h
  by_cases hrun : s.status = .running
  · cases hi : s.instructionAtPc with
    | some i => exact invariant_exec hs hi (step_of_some hrun hi ▸ h)
    | none =>
      rw [step_of_none hrun hi] at h
      by_cases hr : inRange s.params s.pc = true
      · cases (execUnmatched_of_inRange hr).symm.trans h
        exact invariant_halt (coherent_decoded (.of_invariant hs) (isWord_readCell (.of_invariant hs) _)) hs.phase
      · cases (execUnmatched_of_not_inRange hr).symm.trans h
        exact invariant_fetch_fault hs
  · cases (step_of_not_running hrun).symm.trans h
    exact hs

/-- Settles O44. -/
theorem stepKeepsTheInvariant : Obligations.StepKeepsTheInvariant := by
  unfold Obligations.StepKeepsTheInvariant
  exact fun s t hs h => invariant_step hs h

end

end Sys2Proof.Machine
end

section
/-! SUPPORT. The result of each instruction, with its frame: the effects of Arch.effect written out for
general-purpose registers. -/

namespace Sys2Proof.Machine

open Sys2Proof.Config

/-! ### Instructions that complete -/

section
variable {s : State} {i : Instr}

/-- An instruction that lies in memory with valid cells completes. -/
theorem completes_outcome (hs : Invariant s) (hfits : s.fits i.length) (hwf : i.wf s.params = true) :
    Completes i s (s.outcome i) := by
  have hcells : s.arch.checkCells 0 i.cells = .ok () := by
    refine checkCells_ok (fun j hj => ?_) ((all_valid_cells s.params i).trans hwf)
    rw [Nat.zero_add]
    exact inRange_of_fits hs.params hfits (length_cells i ▸ hj)
  obtain ⟨t, ht, hphase, harch⟩ := exec_meaning hs i
  rw [hcells] at harch
  exact ⟨t, ht, harch, hphase.trans hs.phase.symm⟩

theorem completes_effect (hs : Invariant s) (hfits : s.fits i.length) (hwf : i.wf s.params = true)
    (hclosed : s.leavesOpen i = false) : Completes i s (s.arch.effect i) :=
  outcome_of_closed hclosed ▸ completes_outcome hs hfits hwf

theorem completes_of_effect {m : Arch} (hs : Invariant s) (hfits : s.fits i.length) (hwf : i.wf s.params = true)
    (hclosed : s.leavesOpen i = false) (h : s.arch.effect i = m) : Completes i s m :=
  h ▸ completes_effect hs hfits hwf hclosed

/-- A completed store of `v` into cell `a`, in terms of what the cells then read as. -/
theorem CompletesStoring.of_completes {a v : Int} {m : Arch} (hs : Invariant s)
    (h : Completes i s { m with mem := writeCell s.mem a.toNat v }) : CompletesStoring i s a v m := by
  obtain ⟨t, ht, harch, hphase⟩ := h
  have hmem : t.mem = writeCell s.mem a.toNat v := congrArg Arch.mem harch
  refine ⟨t, ht, hmem ▸ harch, hphase, ?_, fun b hb => ?_⟩
  · rw [hmem, readCell_writeCell_same hs.memory]
  · rw [hmem, readCell_writeCell_other hb]

end

/-! ### Operands in general-purpose registers -/

section
variable {P : Params} {m : Arch} {j : Nat}

theorem valid_reg_gpr (h : j < P.numGpr) : CellKind.valid P .reg j = true := by
  rw [valid_reg, regOfId_gpr h]
  rfl

theorem named_gpr (h : j < m.params.numGpr) : m.named j = .gpr j := named_eq (regOfId_gpr h)

theorem operand_gpr (h : j < m.params.numGpr) : m.operand .reg j = m.gpr.getD j 0 := by
  rw [Arch.operand, named_gpr h]
  rfl

theorem aluIntoRegister_gpr (h : j < m.params.numGpr) (sets : Bool) (n : Nat) (r : Int) :
    m.aluIntoRegister sets n j r = { m with
      gpr := m.gpr.set j r
      flags := if sets then flagsOf m.params r else m.flags
      pc := m.cellAddress n } := by
  rw [Arch.aluIntoRegister, named_gpr h]
  cases sets <;> rfl

theorem aluIntoMemory_eq (m : Arch) (sets : Bool) (n : Nat) (a r : Int) :
    m.aluIntoMemory sets n a r = { m with
      flags := if sets then flagsOf m.params r else m.flags
      mem := writeCell m.mem a.toNat r
      pc := m.cellAddress n } := by
  cases sets <;> rfl

theorem leavesOpen_eq_false {s : State} {i : Instr} (h : ∀ v ∈ aluRegisters i, namesSpecial s.params v = false)
    (horder : s.leavesOrderOpen i = false) : s.leavesOpen i = false := by
  rw [State.leavesOpen, horder, Bool.or_false]
  exact List.any_eq_false.2 fun v hv => by simp [h v hv]

end

/-! ### add, sub and inc -/

section
variable {s : State}

theorem wf_one {P : Params} {i : Instr} {c : CellKind × Int} (hi : i.operands = [c])
    (hc : c.1.valid P c.2 = true) : i.wf P = true := by
  simp [Instr.wf, hi, hc]

theorem wf_two {P : Params} {i : Instr} {c d : CellKind × Int} (hi : i.operands = [c, d])
    (hc : c.1.valid P c.2 = true) (hd : d.1.valid P d.2 = true) : i.wf P = true := by
  simp [Instr.wf, hi, hc, hd]

theorem closed_two {i : Instr} {a b : Nat} (hi : aluRegisters i = [(a : Int), (b : Int)])
    (horder : s.leavesOrderOpen i = false)
    (ha : a < s.params.numGpr) (hb : b < s.params.numGpr) : s.leavesOpen i = false := by
  refine leavesOpen_eq_false (fun v hv => ?_) horder
  rw [hi] at hv
  simp only [List.mem_cons, List.not_mem_nil, or_false] at hv
  rcases hv with rfl | rfl
  · exact namesSpecial_gpr ha
  · exact namesSpecial_gpr hb

theorem closed_one {i : Instr} {a : Nat} (hi : aluRegisters i = [(a : Int)]) (horder : s.leavesOrderOpen i = false)
    (ha : a < s.params.numGpr) : s.leavesOpen i = false := by
  refine leavesOpen_eq_false (fun v hv => ?_) horder
  rw [hi] at hv
  rw [List.mem_singleton.1 hv]
  exact namesSpecial_gpr ha

end

/-- Settles O19. -/
theorem addSubBetweenRegisters : Obligations.AddSubBetweenRegisters := by
  unfold Obligations.AddSubBetweenRegisters
  intro s i j hs hfits hi hj
  have hi' : i < s.arch.params.numGpr := hi
  have hj' : j < s.arch.params.numGpr := hj
  refine ⟨completes_of_effect hs hfits (wf_two rfl (valid_reg_gpr hi) (valid_reg_gpr hj)) (closed_two rfl rfl hi hj) ?_,
    completes_of_effect hs hfits (wf_two rfl (valid_reg_gpr hi) (valid_reg_gpr hj)) (closed_two rfl rfl hi hj) ?_⟩
  all_goals
    rw [Arch.effect, aluIntoRegister_gpr hj', operand_gpr hi', operand_gpr hj']
    rfl

/-- Settles O20. -/
theorem addSubMemoryIntoRegister : Obligations.AddSubMemoryIntoRegister := by
  unfold Obligations.AddSubMemoryIntoRegister
  intro s m j hs hfits hm hj
  have hj' : j < s.arch.params.numGpr := hj
  refine ⟨completes_of_effect hs hfits (wf_two rfl hm (valid_reg_gpr hj)) (closed_one rfl rfl hj) ?_,
    completes_of_effect hs hfits (wf_two rfl hm (valid_reg_gpr hj)) (closed_one rfl rfl hj) ?_⟩
  all_goals
    rw [Arch.effect, aluIntoRegister_gpr hj', operand_gpr hj']
    rfl

/-- Settles O21. -/
theorem addSubRegisterIntoMemory : Obligations.AddSubRegisterIntoMemory := by
  unfold Obligations.AddSubRegisterIntoMemory
  intro s i m hs hfits hi hm
  have hi' : i < s.arch.params.numGpr := hi
  refine ⟨.of_completes hs (completes_of_effect hs hfits (wf_two rfl (valid_reg_gpr hi) hm) (closed_one rfl rfl hi) ?_),
    .of_completes hs (completes_of_effect hs hfits (wf_two rfl (valid_reg_gpr hi) hm) (closed_one rfl rfl hi) ?_)⟩
  all_goals
    rw [Arch.effect, aluIntoMemory_eq, operand_gpr hi']
    rfl

/-- Settles O22. -/
theorem addSubImmediateIntoMemory : Obligations.AddSubImmediateIntoMemory := by
  unfold Obligations.AddSubImmediateIntoMemory
  intro s i m hs hfits hm
  refine ⟨.of_completes hs (completes_of_effect hs hfits (wf_two rfl rfl hm) rfl ?_),
    .of_completes hs (completes_of_effect hs hfits (wf_two rfl rfl hm) rfl ?_)⟩
  all_goals
    rw [Arch.effect, aluIntoMemory_eq]
    rfl

/-- Settles O25. -/
theorem incrementRegister : Obligations.IncrementRegister := by
  unfold Obligations.IncrementRegister
  intro s i hs hfits hi
  have hi' : i < s.arch.params.numGpr := hi
  refine completes_of_effect hs hfits (wf_one rfl (valid_reg_gpr hi)) (closed_one rfl rfl hi) ?_
  rw [Arch.effect, aluIntoRegister_gpr hi', operand_gpr hi']
  rfl

/-- Settles O26. -/
theorem incrementMemory : Obligations.IncrementMemory := by
  unfold Obligations.IncrementMemory
  intro s m hs hfits hm
  refine .of_completes hs (completes_of_effect hs hfits (wf_one rfl hm) rfl ?_)
  rw [Arch.effect, aluIntoMemory_eq]
  rfl

/-! ### Moves -/

/-- Settles O23. -/
theorem movesIntoRegisters : Obligations.MovesIntoRegisters := by
  unfold Obligations.MovesIntoRegisters
  intro s i j m v hs hfits hi hj
  have hvj := valid_reg_gpr hj
  have hnj := named_gpr (m := s.arch) hj
  refine ⟨fun hm => completes_of_effect hs hfits (wf_two rfl hm hvj) rfl ?_,
    completes_of_effect hs hfits (wf_two rfl (valid_reg_gpr hi) hvj) rfl ?_,
    completes_of_effect hs hfits (wf_two rfl rfl hvj) rfl ?_,
    completes_of_effect hs hfits (wf_two rfl hvj rfl) rfl ?_⟩
  · rw [Arch.effect, hnj]; rfl
  · rw [Arch.effect, hnj, named_gpr (m := s.arch) hi]; rfl
  · rw [Arch.effect, hnj]; rfl
  · rw [Arch.effect, hnj]; rfl

/-- Settles O24. -/
theorem moveRegisterIntoMemory : Obligations.MoveRegisterIntoMemory := by
  unfold Obligations.MoveRegisterIntoMemory
  intro s i m hs hfits hi hm
  refine .of_completes hs (completes_of_effect hs hfits (wf_two rfl (valid_reg_gpr hi) hm) rfl ?_)
  rw [Arch.effect, named_gpr (m := s.arch) hi]
  rfl

/-- Settles O32. Each row of the table is the effect of its instruction, with PC, IR and Flags named by their ids. -/
theorem movesNamingPcIrFlags : Obligations.MovesNamingPcIrFlags := by
  unfold Obligations.MovesNamingPcIrFlags
  intro s j m v hs hfits hj hm
  obtain ⟨hpc, hir, hflags⟩ := regOfId_special s.params
  have vpc : CellKind.valid s.params .reg s.params.idPc = true := by rw [valid_reg, hpc]; rfl
  have vir : CellKind.valid s.params .reg s.params.idIr = true := by rw [valid_reg, hir]; rfl
  have vflags : CellKind.valid s.params .reg s.params.idFlags = true := by rw [valid_reg, hflags]; rfl
  have vj := valid_reg_gpr hj
  have npc : s.arch.named s.params.idPc = .pc := named_eq hpc
  have nir : s.arch.named s.params.idIr = .ir := named_eq hir
  have nflags : s.arch.named s.params.idFlags = .flags := named_eq hflags
  have nj := named_gpr (m := s.arch) hj
  dsimp only
  refine ⟨completes_of_effect hs hfits (wf_two rfl vpc rfl) rfl ?_,
    completes_of_effect hs hfits (wf_two rfl rfl vpc) rfl ?_,
    completes_of_effect hs hfits (wf_two rfl hm vpc) rfl ?_,
    completes_of_effect hs hfits (wf_two rfl vj vpc) rfl ?_,
    completes_of_effect hs hfits (wf_two rfl vflags rfl) rfl ?_,
    completes_of_effect hs hfits (wf_two rfl rfl vflags) rfl ?_,
    completes_of_effect hs hfits (wf_two rfl hm vflags) rfl ?_,
    completes_of_effect hs hfits (wf_two rfl vj vflags) rfl ?_,
    completes_of_effect hs hfits (wf_two rfl vir rfl) rfl ?_,
    completes_of_effect hs hfits (wf_two rfl rfl vir) rfl ?_,
    completes_of_effect hs hfits (wf_two rfl hm vir) rfl ?_,
    completes_of_effect hs hfits (wf_two rfl vj vir) rfl ?_,
    completes_of_effect hs hfits (wf_two rfl vpc vj) rfl ?_,
    .of_completes hs (completes_of_effect hs hfits (wf_two rfl vpc hm) rfl ?_),
    completes_of_effect hs hfits (wf_two rfl vpc vpc) rfl ?_,
    completes_of_effect hs hfits (wf_two rfl vir vj) rfl ?_,
    .of_completes hs (completes_of_effect hs hfits (wf_two rfl vir hm) rfl ?_),
    completes_of_effect hs hfits (wf_two rfl vflags vj) rfl ?_,
    .of_completes hs (completes_of_effect hs hfits (wf_two rfl vflags hm) rfl ?_)⟩
  all_goals simp only [Arch.effect, npc, nir, nflags, nj]
  case refine_15 =>
    change { s.arch with pc := s.arch.wrap (s.arch.wrap (s.pc + (1 : Nat)) + 1) } = _
    rw [Arch.wrap, Arch.wrap, wrap_wrap_add, add_assoc]
    rfl
  all_goals rfl

end Sys2Proof.Machine
end

section
/-! SUPPORT. The jumps and their decisions, and the words that halt. -/

namespace Sys2Proof.Machine

open Sys2Proof.Config

/-! ### Decisions of the compare jumps -/

/-- The wrapped difference of two words is 0 exactly where they are equal, overflow or not (decision D10). -/
theorem wrap_sub_eq_zero_iff {n : Nat} (hn : 1 ≤ n) {x y : Int} (hx : isWord n x = true) (hy : isWord n y = true) :
    wrap n (x - y) = 0 ↔ x = y := by
  refine ⟨fun h => ?_, fun h => by simp [h, wrap]⟩
  have hxy : wrap n x = wrap n y := by
    calc wrap n x = wrap n (wrap n (x - y) + y) := by rw [wrap_wrap_add, sub_add_cancel]
      _ = wrap n y := by rw [h, zero_add]
  rwa [wrap_of_isWord hn hx, wrap_of_isWord hn hy] at hxy

theorem jumpIf_eq (m : Arch) (taken : Bool) (t : Int) (n : Nat) :
    m.jumpIf taken t n = { m with pc := if taken then t else m.cellAddress n } := by
  cases taken <;> rfl

section
variable {s : State} {i j : Nat}

theorem wf_three {P : Params} {i : Instr} {c d e : CellKind × Int} (hi : i.operands = [c, d, e])
    (hc : c.1.valid P c.2 = true) (hd : d.1.valid P d.2 = true) (he : e.1.valid P e.2 = true) : i.wf P = true := by
  simp [Instr.wf, hi, hc, hd, he]

theorem operandValue_gpr (hi : i < s.params.numGpr) : s.operandValue i = s.gpr.getD i 0 := by
  rw [State.operandValue, regOfId_gpr hi]
  rfl

/-- Nothing is left open under the reference setting (45_compare_jumps R210 (c)). -/
theorem comparisonOpen_of_sign (h : s.params.cmpOverflow = .signOfWrappedDifference) (a b : Int) :
    s.comparisonOpen a b = false := by
  rw [State.comparisonOpen, h]

/-- Nothing is left open where the true difference fits a word, whatever the setting. -/
theorem comparisonOpen_of_fits {a b : Int}
    (h : differenceFits s.params.xlen (s.operandValue a) (s.operandValue b) = true) : s.comparisonOpen a b = false := by
  rw [State.comparisonOpen]
  cases s.params.cmpOverflow
  · rfl
  · exact congrArg (!·) h

theorem isWord_gpr (hs : Invariant s) (i : Nat) : isWord s.params.xlen (s.gpr.getD i 0) = true :=
  isWord_getReg (.of_invariant hs) (.gpr i)

end

/-- Settles O27. -/
theorem jumpsOnFlags : Obligations.JumpsOnFlags := by
  unfold Obligations.JumpsOnFlags
  intro s t hs hfits
  exact ⟨completes_of_effect hs hfits (wf_one rfl rfl) rfl rfl,
    completes_of_effect hs hfits (wf_one rfl rfl) rfl (jumpIf_eq ..),
    completes_of_effect hs hfits (wf_one rfl rfl) rfl (jumpIf_eq ..),
    completes_of_effect hs hfits (wf_one rfl rfl) rfl (jumpIf_eq ..)⟩

/-- Settles O28. -/
theorem jumpIfEqual : Obligations.JumpIfEqual := by
  unfold Obligations.JumpIfEqual
  intro s i j t hs hfits hi hj
  have hwf := wf_three (i := .jeq i j t) rfl (valid_reg_gpr hi) (valid_reg_gpr hj) rfl
  refine completes_of_effect hs hfits hwf (closed_two rfl rfl hi hj) ?_
  have hdecision : decide (s.arch.wrap (s.gpr.getD i 0 - s.gpr.getD j 0) = 0) = decide (s.gpr.getD i 0 = s.gpr.getD j 0) :=
    decide_eq_decide.2 (wrap_sub_eq_zero_iff (Params.one_le_xlen hs.params) (isWord_gpr hs i) (isWord_gpr hs j))
  rw [Arch.effect, operand_gpr (m := s.arch) hi, operand_gpr (m := s.arch) hj, jumpIf_eq, arch_gpr, hdecision]
  simp only [decide_eq_true_eq]
  rfl

/-- Settles O29. -/
theorem jumpOnWrappedDifference : Obligations.JumpOnWrappedDifference := by
  unfold Obligations.JumpOnWrappedDifference
  intro s i j t hs hfits hi hj hsetting
  have hclosed := comparisonOpen_of_sign hsetting i j
  refine ⟨completes_of_effect hs hfits (wf_three rfl (valid_reg_gpr hi) (valid_reg_gpr hj) rfl)
      (closed_two rfl hclosed hi hj) ?_,
    completes_of_effect hs hfits (wf_three rfl (valid_reg_gpr hi) (valid_reg_gpr hj) rfl)
      (closed_two rfl hclosed hi hj) ?_⟩
  all_goals
    rw [Arch.effect, operand_gpr (m := s.arch) hi, operand_gpr (m := s.arch) hj, jumpIf_eq]
    simp only [decide_eq_true_eq]
    rfl

/-- Settles O30. The difference is its own wrapping, and its sign is the order of the words. -/
theorem jumpOnSignedOrderWithoutOverflow : Obligations.JumpOnSignedOrderWithoutOverflow := by
  unfold Obligations.JumpOnSignedOrderWithoutOverflow
  intro s i j t hs hfits hi hj hlow hhigh
  have hword : isWord s.params.xlen (s.gpr.getD i 0 - s.gpr.getD j 0) = true := isWord_iff.2 ⟨hlow, hhigh⟩
  have hwrap : s.arch.wrap (s.gpr.getD i 0 - s.gpr.getD j 0) = s.gpr.getD i 0 - s.gpr.getD j 0 :=
    wrap_of_isWord (Params.one_le_xlen hs.params) hword
  have hclosed : s.comparisonOpen i j = false :=
    comparisonOpen_of_fits (by rw [operandValue_gpr hi, operandValue_gpr hj]; exact hword)
  refine ⟨completes_of_effect hs hfits (wf_three rfl (valid_reg_gpr hi) (valid_reg_gpr hj) rfl)
      (closed_two rfl hclosed hi hj) ?_,
    completes_of_effect hs hfits (wf_three rfl (valid_reg_gpr hi) (valid_reg_gpr hj) rfl)
      (closed_two rfl hclosed hi hj) ?_⟩
  all_goals
    rw [Arch.effect, operand_gpr (m := s.arch) hi, operand_gpr (m := s.arch) hj, jumpIf_eq, arch_gpr, hwrap]
    simp only [decide_eq_true_eq, sub_pos, sub_neg]
    rfl

/-! ### Words that halt -/

/-- Settles O31. -/
theorem reservedAndUnmatchedWordsHalt : Obligations.ReservedAndUnmatchedWordsHalt := by
  unfold Obligations.ReservedAndUnmatchedWordsHalt
  intro s hfits
  have hr : inRange s.params s.pc = true := by
    rw [fits_iff] at hfits
    exact inRange_iff.2 ⟨hfits.1, by omega⟩
  refine ⟨fun i hi => ?_, fun hrun hv => ?_⟩
  · have hp : microprogram s.params i.opcode = none := by
      simp only [List.mem_cons, List.not_mem_nil, or_false] at hi
      rcases hi with rfl | rfl | rfl <;> rfl
    exact ⟨_, exec_of_fetch_halt hp hr, rfl, rfl, rfl, rfl, rfl⟩
  · refine ⟨(s.decoded (readCell s.mem s.pc.toNat)).halt, ?_, rfl, rfl, rfl, rfl, rfl⟩
    rw [step_of_none hrun (instructionAtPc_eq_none_of_outside hv), execUnmatched_of_inRange hr]

end Sys2Proof.Machine
end

section
/-! SUPPORT. What holds of an instruction whose result the spec leaves open, and each family's rules. -/

namespace Sys2Proof.Machine

open Sys2Proof.Config

/-! ### Open results (70_reset_and_hazards R313, 45_compare_jumps R210 (c)) -/

section
variable {s : State} {i : Instr} {d : Int}

/-- The outcome of an instruction with a register destination. -/
theorem outcome_of_registerDestination (hd : registerDestination i = some d) : ∃ v sets f,
    s.outcome i = ((s.arch.flagged sets f).advance i.length).setReg (s.arch.named d) v := by
  have hshape := outcome_shape s i
  generalize s.outcome i = m at hshape
  cases hshape with
  | register d' v sets f hd' =>
    cases hd.symm.trans hd'
    exact ⟨v, sets, f, rfl⟩
  | memory d' v sets f hd' => cases i <;> cases hd <;> cases hd'
  | jump t taken ht => cases i <;> cases hd <;> cases ht
  | halt h => rcases h with rfl | rfl | rfl <;> cases hd

/-- The outcome of an instruction with a memory destination. -/
theorem outcome_of_memoryDestination (hd : memoryDestination i = some d) : ∃ v sets f,
    s.outcome i = ((s.arch.flagged sets f).setMemory d v).advance i.length := by
  have hshape := outcome_shape s i
  generalize s.outcome i = m at hshape
  cases hshape with
  | memory d' v sets f hd' =>
    cases hd.symm.trans hd'
    exact ⟨v, sets, f, rfl⟩
  | register d' v sets f hd' => cases i <;> cases hd <;> cases hd'
  | jump t taken ht => cases i <;> cases hd <;> cases ht
  | halt h => rcases h with rfl | rfl | rfl <;> cases hd

/-- The outcome of a jump. -/
theorem outcome_of_jumpTarget (hd : jumpTarget i = some d) : ∃ taken,
    s.outcome i = s.arch.jumpIf taken d i.length := by
  have hshape := outcome_shape s i
  generalize s.outcome i = m at hshape
  cases hshape with
  | jump t taken ht =>
    cases hd.symm.trans ht
    exact ⟨taken, rfl⟩
  | register d' v sets f hd' => cases i <;> cases hd <;> cases hd'
  | memory d' v sets f hd' => cases i <;> cases hd <;> cases hd'
  | halt h => rcases h with rfl | rfl | rfl <;> cases hd

end

/-- Settles O33. -/
theorem openRegisterResultFrame : Obligations.OpenRegisterResultFrame := by
  unfold Obligations.OpenRegisterResultFrame
  intro s i d hs hfits hwf _ hd _
  obtain ⟨t, ht, harch, hphase⟩ := completes_outcome hs hfits hwf
  obtain ⟨v, sets, f, houtcome⟩ := outcome_of_registerDestination (s := s) hd
  rw [houtcome] at harch
  have hgpr : t.gpr = _ := congrArg Arch.gpr harch
  refine ⟨t, ht, ?_, ?_, ?_, hphase, ?_, fun k hk => ?_, fun hpc => ?_⟩
  · exact (congrArg Arch.params harch).trans (by simp)
  · exact (congrArg Arch.status harch).trans (by simp)
  · exact (congrArg Arch.mem harch).trans (by simp)
  · rw [hgpr, setReg_gpr_length]
    simp
  · rw [hgpr, setReg_gpr_of_ne fun h => hk (regOfId_of_named h nofun)]
    simp
  · refine (congrArg Arch.pc harch).trans ?_
    rw [setReg_pc_of_ne fun h => hpc (regOfId_of_named h nofun)]
    simp
    rfl

/-- An open instruction with a memory destination has three cells, an open jump four. -/
theorem length_of_open {s : State} {i : Instr} (h : s.leavesOpen i = true) :
    ((∃ d, memoryDestination i = some d) → i.length = 3) ∧ ((∃ d, jumpTarget i = some d) → i.length = 4) := by
  cases i
  case addRegMem | subRegMem => exact ⟨fun _ => rfl, nofun⟩
  case jeq | jgt | jlw => exact ⟨nofun, fun _ => rfl⟩
  case addRegReg | addMemReg | subRegReg | subMemReg | incReg => exact ⟨nofun, nofun⟩
  all_goals cases h

/-- Settles O34. -/
theorem openMemoryResultAndOpenBranchFrame : Obligations.OpenMemoryResultAndOpenBranchFrame := by
  unfold Obligations.OpenMemoryResultAndOpenBranchFrame
  intro s i hs hfits hwf hopen
  obtain ⟨t, ht, harch, hphase⟩ := completes_outcome hs hfits hwf
  obtain ⟨hmem3, hjump4⟩ := length_of_open hopen
  refine ⟨fun d hd => ⟨t, ht, ?_⟩, fun d hd => ⟨t, ht, ?_⟩⟩
  · obtain ⟨v, sets, f, houtcome⟩ := outcome_of_memoryDestination (s := s) hd
    rw [houtcome, hmem3 ⟨d, hd⟩] at harch
    refine ⟨(congrArg Arch.params harch).trans (by simp), (congrArg Arch.status harch).trans (by simp),
      (congrArg Arch.gpr harch).trans (by simp), hphase, (congrArg Arch.pc harch).trans (by simp; rfl), fun a ha => ?_⟩
    have hmem : t.mem = writeCell s.mem d.toNat v := (congrArg Arch.mem harch).trans (by simp)
    rw [hmem, readCell_writeCell_other ha]
  · obtain ⟨taken, houtcome⟩ := outcome_of_jumpTarget (s := s) hd
    rw [houtcome, hjump4 ⟨d, hd⟩] at harch
    have hpc : t.pc = if taken then d else s.toWord (s.pc + 4) := (congrArg Arch.pc harch).trans (jumpIf_pc ..)
    refine ⟨(congrArg Arch.params harch).trans (by simp), (congrArg Arch.status harch).trans (by simp),
      (congrArg Arch.gpr harch).trans (by simp), hphase, (congrArg Arch.mem harch).trans (by simp),
      (congrArg Arch.flags harch).trans (by simp), ?_⟩
    cases taken with
    | true => exact .inl hpc
    | false => exact .inr hpc

/-! ### Each family follows its rules -/

section
variable {s : State} {i : Instr}

/-- An instruction that lies at `pc` and leaves nothing open does what its rule says, events included. -/
theorem completes_rule (hs : Invariant s) (hr : inRange s.params s.pc = true) (hclosed : s.leavesOpen i = false)
    (h : s.holds i) : Completes i s (s.arch.settle (s.arch.rule i)) := by
  obtain ⟨t, ht, hphase, harch⟩ := exec_meaning hs i
  refine ⟨t, ht, ?_, hphase.trans hs.phase.symm⟩
  rw [harch, outcome_of_closed hclosed, rule_eq (cellsHold_of_holds h).2, Instr.cells,
    checkCells_cons_of_inRange (by rw [cellAddress_zero hs]; exact hr)]
  rfl

theorem closed_of_plain_one {a : Int} (hi : aluRegisters i = [a]) (horder : s.leavesOrderOpen i = false)
    (ha : namesSpecial s.params a = false) : s.leavesOpen i = false :=
  leavesOpen_eq_false (by simp [hi, ha]) horder

theorem closed_of_plain_two {a b : Int} (hi : aluRegisters i = [a, b]) (horder : s.leavesOrderOpen i = false)
    (ha : namesSpecial s.params a = false) (hb : namesSpecial s.params b = false) : s.leavesOpen i = false :=
  leavesOpen_eq_false (by simp [hi, ha, hb]) horder

end

/-- Settles O35. -/
theorem addFollowsItsRules : Obligations.AddFollowsItsRules := by
  unfold Obligations.AddFollowsItsRules
  intro s a b m v hs hr ha hb
  exact ⟨completes_rule hs hr (closed_of_plain_two rfl rfl ha hb), completes_rule hs hr (closed_of_plain_one rfl rfl hb),
    completes_rule hs hr (closed_of_plain_one rfl rfl ha), completes_rule hs hr rfl⟩

/-- Settles O36. -/
theorem subFollowsItsRules : Obligations.SubFollowsItsRules := by
  unfold Obligations.SubFollowsItsRules
  intro s a b m v hs hr ha hb
  exact ⟨completes_rule hs hr (closed_of_plain_two rfl rfl ha hb), completes_rule hs hr (closed_of_plain_one rfl rfl hb),
    completes_rule hs hr (closed_of_plain_one rfl rfl ha), completes_rule hs hr rfl⟩

/-- Settles O37. -/
theorem moveFollowsItsRules : Obligations.MoveFollowsItsRules := by
  unfold Obligations.MoveFollowsItsRules
  refine ⟨fun a b m v => ⟨rfl, rfl, rfl, rfl⟩, fun s a b m v hs hr _ _ => ?_, by decide, by decide, by decide, by decide⟩
  exact ⟨completes_rule hs hr rfl, completes_rule hs hr rfl, completes_rule hs hr rfl, completes_rule hs hr rfl⟩

/-- Settles O38. -/
theorem incFollowsItsRules : Obligations.IncFollowsItsRules := by
  unfold Obligations.IncFollowsItsRules
  refine ⟨fun v => ⟨rfl, rfl⟩, fun s a m hs hr ha => ?_, by decide, by decide⟩
  exact ⟨completes_rule hs hr (closed_of_plain_one rfl rfl ha), completes_rule hs hr rfl⟩

/-- Settles O39. The step after the jump faults in its Fetch. -/
theorem jmpFollowsItsRule : Obligations.JmpFollowsItsRule := by
  unfold Obligations.JmpFollowsItsRule
  intro s t hs hr h
  refine ⟨rfl, completes_rule hs hr rfl h, fun ht hrun hr1 => ?_⟩
  have hfits : s.fits 2 := by
    rw [inRange_iff] at hr hr1
    exact fits_iff.2 ⟨hr.1, by omega⟩
  obtain ⟨u, hu, harch, -⟩ := completes_effect (i := .jmp t) hs hfits (wf_one rfl rfl) rfl
  have hpc : u.pc = t := congrArg Arch.pc harch
  have hout : ¬ inRange u.params u.pc = true := by
    rw [hpc, show u.params = s.params from congrArg Arch.params harch, ht]
    exact Bool.false_ne_true
  have hnone : u.instructionAtPc = none := by
    rw [State.instructionAtPc, if_neg hout]
  refine ⟨u, State.raiseFault { u with extbus := u.pc } (.addressOutOfRange u.pc), hu, hpc, ?_, ?_⟩
  · rw [step_of_none ((congrArg Arch.status harch).trans hrun) hnone, execUnmatched_of_not_inRange hout]
  · rw [← hpc]
    rfl

/-- Settles O40. -/
theorem conditionalJumpsFollowTheirRules : Obligations.ConditionalJumpsFollowTheirRules := by
  unfold Obligations.ConditionalJumpsFollowTheirRules
  exact fun s t hs hr => ⟨completes_rule hs hr rfl, completes_rule hs hr rfl, completes_rule hs hr rfl⟩

/-- Settles O41. -/
theorem compareJumpsFollowTheirRules : Obligations.CompareJumpsFollowTheirRules := by
  unfold Obligations.CompareJumpsFollowTheirRules
  intro s a b t hs hr ha hb
  exact ⟨completes_rule hs hr (closed_of_plain_two rfl rfl ha hb), fun hopen =>
    ⟨completes_rule hs hr (closed_of_plain_two rfl hopen ha hb),
      completes_rule hs hr (closed_of_plain_two rfl hopen ha hb)⟩⟩

/-- Settles O42. -/
theorem ldiFollowsItsRule : Obligations.LdiFollowsItsRule := by
  unfold Obligations.LdiFollowsItsRule
  exact fun s a i hs hr _ h => ⟨rfl, completes_rule hs hr rfl h⟩

/-- Settles O43. Both move the word into the register that `a` names. -/
theorem ldiIsMoveImmediate : Obligations.LdiIsMoveImmediate := by
  unfold Obligations.LdiIsMoveImmediate
  intro s a i hs hfits ha
  obtain ⟨t, ht, harch, -⟩ := completes_effect (i := .ldi a i) hs hfits (wf_two rfl ha rfl) rfl
  obtain ⟨u, hu, harch', -⟩ := completes_effect (i := .moveImmReg i a) hs hfits (wf_two rfl rfl ha) rfl
  exact ⟨t, u, ht, hu, harch.trans harch'.symm⟩

/-! ### Flags of an arithmetic instruction (10_state section 5) -/

section
variable {m : Arch} {b r : Int}

theorem aluIntoRegister_flags (hb : m.named b ≠ .flags) (sets : Bool) (n : Nat) :
    (m.aluIntoRegister sets n b r).flags = if sets then flagsOf m.params r else m.flags := by
  rw [Arch.aluIntoRegister, arch_setReg_flags_of_ne hb]
  simp

theorem named_ne_flags_of_plain (hb : namesSpecial m.params b = false) : m.named b ≠ .flags := by
  intro h
  obtain ⟨i, -, hi⟩ := gpr_of_not_special (regOfId_of_named h nofun) hb
  cases hi

end

/-- An arithmetic instruction on general-purpose registers, memory cells and immediates that sets the flags leaves
those of its result. -/
theorem effect_flags_of_arithmetic {s : State} {i : Instr} (harith : isArithmetic i = true)
    (hplain : ∀ v ∈ aluRegisters i, namesSpecial s.params v = false)
    (hsets : s.params.addUpdatesFlags = true ∨ 4 ≤ i.opcode) :
    ∃ r, (s.arch.effect i).flags = flagsOf s.params r := by
  have hdest {b : Int} (hb : b ∈ aluRegisters i) : s.arch.named b ≠ .flags := named_ne_flags_of_plain (hplain b hb)
  have hadd (h : i.opcode < 4) : s.arch.params.addUpdatesFlags = true := hsets.resolve_right (not_le.2 h)
  cases i
  case subRegReg a b =>
    exact ⟨_, aluIntoRegister_flags (hdest (.tail _ (.head _))) true 3⟩
  case subMemReg a b => exact ⟨_, aluIntoRegister_flags (hdest (.head _)) true 3⟩
  case incReg a => exact ⟨_, aluIntoRegister_flags (hdest (.head _)) true 2⟩
  case subRegMem | subImmMem | incMem => exact ⟨_, rfl⟩
  case addRegReg a b =>
    rw [Arch.effect, aluIntoRegister_flags (hdest (.tail _ (.head _))), hadd (show (0 : Int) < 4 by decide)]
    exact ⟨_, rfl⟩
  case addMemReg a b =>
    rw [Arch.effect, aluIntoRegister_flags (hdest (.head _)), hadd (show (1 : Int) < 4 by decide)]
    exact ⟨_, rfl⟩
  case addRegMem =>
    rw [Arch.effect, hadd (show (2 : Int) < 4 by decide)]
    exact ⟨_, rfl⟩
  case addImmMem =>
    rw [Arch.effect, hadd (show (3 : Int) < 4 by decide)]
    exact ⟨_, rfl⟩
  all_goals cases harith

/-- A running machine whose step ends running has run its instruction to the end. -/
theorem arch_eq_outcome_of_running {s t : State} {i : Instr} (hs : Invariant s) (hrun : s.status = .running)
    (hi : s.instructionAtPc = some i) (h : StepsTo s t) (hrun' : t.status = .running) : t.arch = s.outcome i := by
  obtain ⟨-, heffect⟩ := stepsTo_effect hs h
  replace hrun' : t.arch.status = .running := hrun'
  generalize t.arch = m at hrun' heffect
  cases heffect with
  | terminal hst => exact absurd hrun hst
  | halt | fault => cases hrun'
  | run _ j hj =>
    cases hi.symm.trans hj
    rfl

/-- Settles O55. -/
theorem arithmeticLeavesOneOfThreeFlagValues : Obligations.ArithmeticLeavesOneOfThreeFlagValues := by
  unfold Obligations.ArithmeticLeavesOneOfThreeFlagValues
  intro s t i hs hrun hi harith hspecial h hsets hrun'
  have hplain : ∀ v ∈ aluRegisters i, namesSpecial s.params v = false :=
    fun v hv => by simpa using List.any_eq_false.1 hspecial v hv
  have hclosed : s.leavesOpen i = false := leavesOpen_eq_false hplain (by cases i <;> cases harith <;> rfl)
  obtain ⟨r, hr⟩ := effect_flags_of_arithmetic harith hplain hsets
  have hflags : t.flags = flagsOf s.params r := by
    rw [← hr, ← outcome_of_closed hclosed, ← arch_eq_outcome_of_running hs hrun hi h hrun']
    rfl
  rw [hflags]
  rcases flagsOf_cases s.params r with ⟨-, h⟩ | ⟨-, h⟩ | ⟨-, h⟩
  · exact .inl h
  · exact .inr (.inl h)
  · exact .inr (.inr h)

/-- Settles O56. -/
theorem storedWordIsFetchedNext : Obligations.StoredWordIsFetchedNext := by
  unfold Obligations.StoredWordIsFetchedNext
  intro s j hs hfits hj
  rw [fits_iff] at hfits
  have hr : inRange s.params (s.pc + 3) = true := inRange_iff.2 ⟨by omega, by omega⟩
  have hnext : s.toWord (s.pc + 3) = s.pc + 3 := wrap_of_inRange hs.params hr
  obtain ⟨t, ht, harch, -⟩ := completes_effect (i := .moveRegMem j (s.pc + 3)) hs
    (fits_iff.2 ⟨hfits.1, by change s.pc + 3 ≤ _; omega⟩) (wf_two rfl (valid_reg_gpr hj) hr) rfl
  have hpc : t.pc = s.pc + 3 := (congrArg Arch.pc harch).trans hnext
  have hmem : t.mem = writeCell s.mem (s.pc + 3).toNat (s.gpr.getD j 0) := by
    refine (congrArg Arch.mem harch).trans ?_
    rw [Arch.effect, named_gpr (m := s.arch) hj]
    rfl
  refine ⟨t, ht, hpc, ?_⟩
  rw [State.streamCell, State.cellAddress, hpc, show t.params = s.params from congrArg Arch.params harch, if_pos hr, hmem,
    readCell_writeCell_same hs.memory]

end Sys2Proof.Machine
end


section
/-! SUPPORT. Words, flags, single transactions and the counts of a step's transactions (00_scope R9, 10_state R27
and R41, 40_micro_operations sections 4, 5 and 7, 47_microprograms section 9). -/

namespace Sys2Proof.Machine

open Sys2Proof.Config

/-! ### Words (00_scope R9) -/

/-- Words of the same class modulo `2^n` are equal. -/
theorem wrap_eq_wrap_of_dvd {n : Nat} {v w : Int} (h : (2 ^ n : Int) ∣ w - v) : wrap n w = wrap n v := by
  obtain ⟨c, hc⟩ := h
  have hw : w = v + ((2 ^ n : Nat) : Int) * c := by push_cast; omega
  rw [wrap, wrap, hw, Int.add_mul_bmod_self_left]

theorem dvd_wrap_sub (n : Nat) (v : Int) : (2 ^ n : Int) ∣ wrap n v - v := by
  have h := Int.dvd_bmod_sub_self (x := v) (m := 2 ^ n)
  exact_mod_cast h

/-- Settles O59. -/
theorem wrapGivesTheCongruentWord : Obligations.WrapGivesTheCongruentWord := by
  unfold Obligations.WrapGivesTheCongruentWord
  intro n v w hn
  refine ⟨wrap_isWord hn v, dvd_wrap_sub n v, fun hw hdvd => ?_⟩
  rw [← wrap_of_isWord hn hw]
  exact wrap_eq_wrap_of_dvd hdvd

/-! ### Reset (10_state R41) -/

/-- Settles O1. -/
theorem resetLeavesTheStatedValues : Obligations.ResetLeavesTheStatedValues := by
  unfold Obligations.ResetLeavesTheStatedValues
  refine ⟨rfl, fun P => ⟨rfl, List.length_replicate, fun i hi => ?_, rfl, rfl, rfl, rfl, rfl, rfl⟩⟩
  exact List.getElem?_replicate_of_lt hi

theorem invariant_resetWith {P : Params} (hP : P.valid = true) : Invariant (State.resetWith P) where
  params := hP
  registers := List.length_replicate
  words := by
    have hzero : isWord P.xlen 0 = true := Params.isWord_small hP (by omega) (by omega)
    have hgpr : ∀ v ∈ (State.resetWith P).gpr, isWord P.xlen v = true :=
      fun v hv => List.eq_of_mem_replicate hv ▸ hzero
    exact (allWords_iff _).2 ⟨hgpr, hzero, hzero, hzero, hzero, hzero, hzero, hzero, hzero, fun _ hc => nomatch hc⟩
  selector := by
    have hgpr : 2 ≤ P.numGpr := ((P.valid_iff).1 hP).2.2.2.1
    exact decide_eq_true (show 0 < P.numGpr by omega)
  memory := reset_memory_wf P
  phase := rfl

/-- Settles O2. -/
theorem invariantHoldsAtReset : Obligations.InvariantHoldsAtReset := by
  unfold Obligations.InvariantHoldsAtReset
  exact ⟨invariant_resetWith (P := .reference) (by decide), fun P hP => invariant_resetWith hP⟩

/-! ### The transactions of memory and of the selector -/

theorem apply_memRead_of_inRange {s : State} (h : inRange s.params s.extbus = true) :
    Transaction.memRead.apply s = .ok { s with extbus := readCell s.mem s.extbus.toNat } :=
  if_pos h

theorem apply_memRead_of_not_inRange {s : State} (h : inRange s.params s.extbus = false) :
    Transaction.memRead.apply s = .error (.addressOutOfRange s.extbus, s) :=
  if_neg (ne_true_of_eq_false h)

/-- Settles O12. -/
theorem memoryReadTransaction : Obligations.MemoryReadTransaction := by
  unfold Obligations.MemoryReadTransaction
  exact fun s => ⟨fun h => apply_memRead_of_inRange (inRange_iff.2 h),
    fun h => apply_memRead_of_not_inRange (inRange_false_iff.2 h)⟩

theorem apply_memStore_idle_of_inRange {s : State} (hidle : s.phase = .idle) (h : inRange s.params s.extbus = true) :
    Transaction.memStore.apply s = .ok { s with latch := s.extbus, phase := .latched } := by
  rw [Transaction.apply, State.memoryStore, hidle]
  exact if_pos h

theorem apply_memStore_idle_of_not_inRange {s : State} (hidle : s.phase = .idle)
    (h : inRange s.params s.extbus = false) :
    Transaction.memStore.apply s = .error (.addressOutOfRange s.extbus, s) := by
  rw [Transaction.apply, State.memoryStore, hidle]
  exact if_neg (ne_true_of_eq_false h)

theorem apply_memStore_latched {s : State} (hlatched : s.phase = .latched) :
    Transaction.memStore.apply s =
      .ok { s with mem := writeCell s.mem s.latch.toNat s.extbus, phase := .idle } := by
  rw [Transaction.apply, State.memoryStore, hlatched]
  rfl

/-- Settles O13: the first call latches, the second writes. -/
theorem memoryStoreHasTwoPhases : Obligations.MemoryStoreHasTwoPhases := by
  unfold Obligations.MemoryStoreHasTwoPhases
  intro s v hs
  refine ⟨fun h => ?_, apply_memStore_idle_of_not_inRange hs.phase⟩
  exact ⟨_, _, apply_memStore_idle_of_inRange hs.phase h, rfl, rfl, apply_memStore_latched rfl, rfl, rfl,
    readCell_writeCell_same hs.memory _ v, fun b hb => readCell_writeCell_other hb s.mem v⟩

theorem apply_selLoad_of_some {s : State} {r : Reg} (h : regOfId s.params s.extbus = some r) :
    Transaction.selLoad.apply s = .ok { s with sel := r } := by
  rw [Transaction.apply, State.selectorLoad, State.busGet, h]

theorem apply_selLoad_of_none {s : State} (h : regOfId s.params s.extbus = none) :
    Transaction.selLoad.apply s = .error (.registerIdOutOfRange s.extbus, s) := by
  rw [Transaction.apply, State.selectorLoad, State.busGet, h]

/-- Settles O14. -/
theorem selectorLoadTakesTheId : Obligations.SelectorLoadTakesTheId := by
  unfold Obligations.SelectorLoadTakesTheId
  intro s
  obtain ⟨hpc, hir, hflags⟩ := regOfId_special s.params
  refine ⟨fun i hi h => ?_, fun h => ?_, fun h => ?_, fun h => ?_, fun h => ?_⟩
  · exact apply_selLoad_of_some (h ▸ regOfId_gpr hi)
  · exact apply_selLoad_of_some (h ▸ hpc)
  · exact apply_selLoad_of_some (h ▸ hir)
  · exact apply_selLoad_of_some (h ▸ hflags)
  · exact apply_selLoad_of_none (regOfId_eq_none_iff.2 h)

/-- Settles O15. -/
theorem programCounterAdvance : Obligations.ProgramCounterAdvance := by
  unfold Obligations.ProgramCounterAdvance
  exact fun s => ⟨rfl, run_pcadv s⟩

/-! ### The flags of a result (10_state R27) -/

theorem getLsbD_one_shift (p q : Fin 3) : (1#3 <<< p.val).getLsbD q.val = decide (q = p) := by
  revert p q
  decide

theorem getLsbD_flagBit (p q : Fin 3) (b : Bool) : (flagBit p b).getLsbD q.val = (b && decide (q = p)) := by
  cases b
  · exact BitVec.getLsbD_zero
  · rw [Bool.true_and, ← getLsbD_one_shift]
    rfl

/-- Each bit of the flags of a result is the disjunction of the three conditions placed at it. -/
theorem getLsbD_flagsOf (P : Params) (r : Int) (q : Fin 3) : (flagsOf P r).getLsbD q.val =
    (decide (r = 0) && decide (q = P.flagZ) || decide (r < 0) && decide (q = P.flagN) ||
      decide (r ≠ 0) && decide (q = P.flagNZ)) := by
  rw [flagsOf, BitVec.getLsbD_or, BitVec.getLsbD_or, getLsbD_flagBit, getLsbD_flagBit, getLsbD_flagBit]

theorem zeroFlag_flagsOf {P : Params} (hP : P.valid = true) (r : Int) :
    zeroFlag P (flagsOf P r) = true ↔ r = 0 := by
  obtain ⟨-, -, -, -, -, hZN, hZNZ, -⟩ := (P.valid_iff).1 hP
  rw [zeroFlag, getLsbD_flagsOf]
  simp [hZN, hZNZ]

theorem negativeFlag_flagsOf {P : Params} (hP : P.valid = true) (r : Int) :
    negativeFlag P (flagsOf P r) = true ↔ r < 0 := by
  obtain ⟨-, -, -, -, -, hZN, -, hNNZ⟩ := (P.valid_iff).1 hP
  rw [negativeFlag, getLsbD_flagsOf]
  simp [hZN.symm, hNNZ]

theorem nonzeroFlag_flagsOf {P : Params} (hP : P.valid = true) (r : Int) :
    nonzeroFlag P (flagsOf P r) = true ↔ r ≠ 0 := by
  obtain ⟨-, -, -, -, -, -, hZNZ, hNNZ⟩ := (P.valid_iff).1 hP
  rw [nonzeroFlag, getLsbD_flagsOf]
  simp [hZNZ.symm, hNNZ.symm]

/-- Settles O17. -/
theorem flagsOfAResult : Obligations.FlagsOfAResult := by
  unfold Obligations.FlagsOfAResult
  refine ⟨fun P r hP => ⟨zeroFlag_flagsOf hP r, negativeFlag_flagsOf hP r, nonzeroFlag_flagsOf hP r, ?_⟩, rfl, ?_, ?_⟩
  · rcases flagsOf_cases P r with ⟨-, h⟩ | ⟨-, h⟩ | ⟨-, h⟩
    · exact .inl h
    · exact .inr (.inl h)
    · exact .inr (.inr h)
  · intro r hr
    rcases flagsOf_cases .reference r with ⟨hr', -⟩ | ⟨-, h⟩ | ⟨hr', -⟩
    · omega
    · exact h
    · omega
  · intro r hr
    rcases flagsOf_cases .reference r with ⟨hr', -⟩ | ⟨hr', -⟩ | ⟨-, h⟩
    · omega
    · omega
    · exact h

/-! ### The counts of 47_microprograms section 9 -/

/-- Settles O18: with `add`'s flag derivation present, the transactions of every step are known and are counted. -/
theorem transactionAndMemoryCounts : Obligations.TransactionAndMemoryCounts := by
  unfold Obligations.TransactionAndMemoryCounts
  refine ⟨fun P hP => ?_, by decide⟩
  obtain ⟨xlen, memSize, numGpr, flagZ, flagN, flagNZ, addUpdatesFlags, cmpOverflow⟩ := P
  obtain rfl : addUpdatesFlags = true := hP
  rfl

end Sys2Proof.Machine
end


section
/-! SUPPORT. The launch and the runs from it: what the loader writes, and the invariant of every reachable state
(70_reset_and_hazards section 2). -/

namespace Sys2Proof.Machine

open Sys2Proof.Config

/-! ### Consecutive cells -/

/-- Writing consecutive cells leaves the cells above alone. -/
theorem readCell_writeCells_of_ge {N a b : Nat} {vs : List Int} (hb : a + vs.length ≤ b) (m : Memory) :
    readCell (writeCells N m a vs) b = readCell m b := by
  induction vs generalizing m a with
  | nil => rfl
  | cons v rest ih =>
    rw [List.length_cons] at hb
    rw [writeCells, ih (by omega)]
    split
    · exact readCell_writeCell_other (by omega) m v
    · rfl

/-- A cell written by a block write reads as its place in the block. -/
theorem readCell_writeCells {N a k : Nat} {m : Memory} {vs : List Int} (hm : m.wf N = true) (hN : a + vs.length ≤ N)
    (hk : k < vs.length) : readCell (writeCells N m a vs) (a + k) = vs.getD k 0 := by
  induction vs generalizing m a k with
  | nil => exact absurd hk (Nat.not_lt_zero k)
  | cons v rest ih =>
    rw [List.length_cons] at hN hk
    have ha : a < N := by omega
    rw [writeCells, if_pos ha]
    cases k with
    | zero =>
      rw [readCell_writeCells_of_lt (show a + 0 < a + 1 by omega)]
      exact readCell_writeCell_same hm a v
    | succ k =>
      rw [show a + (k + 1) = a + 1 + k by omega, ih (writeCell_wf hm ha v) (by omega) (by omega), List.getD_cons_succ]

theorem forall_isWord_writeCells {n N a : Nat} {m : Memory} {vs : List Int} (hm : ∀ c ∈ m, isWord n c.2 = true)
    (hvs : ∀ v ∈ vs, isWord n v = true) : ∀ c ∈ writeCells N m a vs, isWord n c.2 = true := by
  induction vs generalizing m a with
  | nil => exact hm
  | cons v rest ih =>
    obtain ⟨hv, hrest⟩ := List.forall_mem_cons.1 hvs
    rw [writeCells]
    refine ih ?_ hrest
    split
    · exact forall_isWord_writeCell hm hv a
    · exact hm

/-! ### The loader -/

theorem objectFits_iff {P : Params} {object : List Int} : objectFits P object = true ↔
    (objectCells object).length + 1 ≤ P.memSize ∧ ∀ v ∈ objectCells object, isWord P.xlen v = true := by
  simp [objectFits]

/-- Settles O57: the loader writes the image and its sentinel as one block from address 0. -/
theorem loaderWritesTheImageAndItsSentinel : Obligations.LoaderWritesTheImageAndItsSentinel := by
  unfold Obligations.LoaderWritesTheImageAndItsSentinel
  intro s object hm hfits
  obtain ⟨hlen, -⟩ := objectFits_iff.1 hfits
  have hblock : (objectCells object ++ [sentinel]).length = (objectCells object).length + 1 := List.length_append
  have hin (k : Nat) (hk : k < (objectCells object).length + 1) :
      readCell (s.loadObject object).mem k = (objectCells object ++ [sentinel]).getD k 0 := by
    have h := readCell_writeCells (a := 0) (k := k) (vs := objectCells object ++ [sentinel]) hm (by omega) (by omega)
    rwa [Nat.zero_add] at h
  refine ⟨fun k hk => ?_, ?_, fun k hk => readCell_writeCells_of_ge (by omega) s.mem, writeCells_wf hm 0 _⟩
  · rw [hin k (by omega), List.getD_append _ _ _ _ hk]
  · rw [hin _ (Nat.lt_succ_self _), List.getD_append_right _ _ _ _ (Nat.le_refl _), Nat.sub_self]
    rfl

/-- Another memory of words, in canonical form, does not touch the rest of the invariant. -/
theorem Invariant.withMemory {s : State} (hs : Invariant s) {m : Memory} (hm : m.wf s.params.memSize = true)
    (hwords : ∀ c ∈ m, isWord s.params.xlen c.2 = true) : Invariant { s with mem := m } where
  params := hs.params
  registers := hs.registers
  words := by
    obtain ⟨hgpr, hpc, hir, hext, hint1, hint2, hslot0, hslot1, hlatch, -⟩ := (allWords_iff s).1 hs.words
    exact (allWords_iff _).2 ⟨hgpr, hpc, hir, hext, hint1, hint2, hslot0, hslot1, hlatch, hwords⟩
  selector := hs.selector
  memory := hm
  phase := hs.phase

theorem invariant_loadObject {s : State} (hs : Invariant s) {object : List Int}
    (hfits : objectFits s.params object = true) : Invariant (s.loadObject object) := by
  obtain ⟨-, hwords⟩ := objectFits_iff.1 hfits
  have hmem : ∀ c ∈ s.mem, isWord s.params.xlen c.2 = true := by
    obtain ⟨-, -, -, -, -, -, -, -, -, h⟩ := (allWords_iff s).1 hs.words
    exact h
  have hsentinel : isWord s.params.xlen sentinel = true := Params.isWord_small hs.params (by decide) (by decide)
  refine hs.withMemory (writeCells_wf hs.memory 0 _) (forall_isWord_writeCells hmem ?_)
  exact List.forall_mem_append.2 ⟨hwords, List.forall_mem_singleton.2 hsentinel⟩

/-- Settles O58, by induction on the run. -/
theorem reachableStatesKeepTheInvariant : Obligations.ReachableStatesKeepTheInvariant := by
  unfold Obligations.ReachableStatesKeepTheInvariant
  intro P memInit object s hP hwf hwords hfits hreach
  induction hreach with
  | launch =>
    have hmem : ∀ c ∈ memInit, isWord P.xlen c.2 = true := by simpa using hwords
    exact invariant_loadObject ((invariant_resetWith hP).withMemory hwf hmem) hfits
  | step _ hstep ih => exact invariant_step ih hstep

end Sys2Proof.Machine
end
